-- ==== Sys2Proof/Word.lean ====
section
/-! DEFINITION. The word types of the engine (spec/00_scope.md R9, R13): 32-bit registers, 16-bit descriptor
fields, 8-bit frames. -/

namespace Sys2Proof

/-- A register, an operand or a caller-memory address: 32 bits (R9, R23, R61). -/
abbrev Word := BitVec 32

/-- A 16-bit field of a message descriptor, the error-flag mask or a message count (R34, R65). -/
abbrev Half := BitVec 16

/-- One byte of caller memory, one SPI frame or one I2C byte (R9, R63). -/
abbrev Byte := BitVec 8

end Sys2Proof
end

