-- ==== Sys2Proof/Syntax.lean ====
section
/-! DEFINITION. The twelve commands of spec/opcode_table.json, with the inline operands of the command word
(spec/30_encoding.md R85 to R91). The operands in ARG0, ARG1 and ARG2 are registers of the command port, read by the
meanings. -/

namespace Sys2Proof

/-- One decoded command word (R91). `bus` is the 4-bit BUS field as encoded: a value that names no bus of the platform is
encodable and rejected when the command runs (R92 step 3). `ord` is 1 for MSB-first (R22); `mode` 4..15 and `tier` 8..255
are encodable and rejected by their rules (R90, R95). -/
inductive Instr where
  | spiBegin (bus : BitVec 4) (tier : BitVec 8) (ord : BitVec 1) (mode : BitVec 4)
  | spiBeginSlave (bus : BitVec 4) (ord : BitVec 1) (mode : BitVec 4)
  | spiEnd (bus : BitVec 4)
  | spiRead (bus : BitVec 4)
  | spiWrite (bus : BitVec 4)
  | spiTransfer (bus : BitVec 4) (byte : BitVec 8)
  | spiBaudCalc (bus : BitVec 4) (tier : BitVec 8)
  | i2cInit (bus : BitVec 4)
  | i2cMasterEnable (bus : BitVec 4) (flags : BitVec 4)
  | i2cMasterXfer (bus : BitVec 4)
  | i2cBusReset (bus : BitVec 4)
  | i2cTimingCalc (bus : BitVec 4) (flags : BitVec 4)
deriving DecidableEq, Repr, Inhabited

namespace Instr

/-- The BUS field of any command (R85: bits 11:8 of every word). -/
def bus : Instr → BitVec 4
  | .spiBegin b _ _ _ => b
  | .spiBeginSlave b _ _ => b
  | .spiEnd b => b
  | .spiRead b => b
  | .spiWrite b => b
  | .spiTransfer b _ => b
  | .spiBaudCalc b _ => b
  | .i2cInit b => b
  | .i2cMasterEnable b _ => b
  | .i2cMasterXfer b => b
  | .i2cBusReset b => b
  | .i2cTimingCalc b _ => b

end Instr

end Sys2Proof
end

