-- ==== Sys2Proof/Decode.lean ====
section
/-! DEFINITION. The decoder of command words and, after it, the encoder, both from the opcode map of
spec/30_encoding.md R85 to R94. -/

namespace Sys2Proof

/-- The opcodes of R91. -/
inductive Opcode where
  | spiBegin | spiBeginSlave | spiEnd | spiRead | spiWrite | spiTransfer | spiBaudCalc
  | i2cInit | i2cMasterEnable | i2cMasterXfer | i2cBusReset | i2cTimingCalc
deriving DecidableEq, Repr

/-- Why a word is no command: both reasons are the configuration error IllegalCommand (R92 steps 1 and 2, R94). -/
inductive DecodeError where
  /-- No row of the opcode map has the word's OP byte (R92 step 1). -/
  | illegalOpcode
  /-- A reserved bit of the row is 1 (R92 step 2). -/
  | reservedBits
deriving DecidableEq, Repr

/-- The OP byte of a row (R91). -/
def Opcode.code : Opcode → BitVec 8
  | .spiBegin => 0x01
  | .spiBeginSlave => 0x02
  | .spiEnd => 0x03
  | .spiRead => 0x04
  | .spiWrite => 0x05
  | .spiTransfer => 0x06
  | .spiBaudCalc => 0x07
  | .i2cInit => 0x10
  | .i2cMasterEnable => 0x11
  | .i2cMasterXfer => 0x12
  | .i2cBusReset => 0x13
  | .i2cTimingCalc => 0x14

/-- The mask column of R91: the bits a row fixes (OP and the reserved bits). -/
def Opcode.mask : Opcode → Word
  | .spiBegin => 0xE000F0FF
  | .spiBeginSlave => 0xE0FFF0FF
  | .spiEnd => 0xFFFFF0FF
  | .spiRead => 0xFFFFF0FF
  | .spiWrite => 0xFFFFF0FF
  | .spiTransfer => 0xFF00F0FF
  | .spiBaudCalc => 0xFF00F0FF
  | .i2cInit => 0xFFFFF0FF
  | .i2cMasterEnable => 0xFFF0F0FF
  | .i2cMasterXfer => 0xFFFFF0FF
  | .i2cBusReset => 0xFFFFF0FF
  | .i2cTimingCalc => 0xFFF0F0FF

/-- The match column of R91. -/
def Opcode.matchWord (o : Opcode) : Word := o.code.setWidth 32

/-- The rows of R91, in the table's order. -/
def Opcode.all : List Opcode :=
  [.spiBegin, .spiBeginSlave, .spiEnd, .spiRead, .spiWrite, .spiTransfer, .spiBaudCalc,
   .i2cInit, .i2cMasterEnable, .i2cMasterXfer, .i2cBusReset, .i2cTimingCalc]

/-- The row with a given OP byte, if any (R92 step 1). -/
def Opcode.ofCode (op : BitVec 8) : Option Opcode := Opcode.all.find? fun o => o.code == op

/-- The operand fields of a word of a row (R90): BUS = CMD[11:8], TIER = BYTE = CMD[23:16], MODE = CMD[27:24],
ORD = CMD[28], FLAGS = CMD[19:16]. -/
def Opcode.operands (o : Opcode) (w : Word) : Instr :=
  let bus : BitVec 4 := w.extractLsb' 8 4
  let byte : BitVec 8 := w.extractLsb' 16 8
  let mode : BitVec 4 := w.extractLsb' 24 4
  let ord : BitVec 1 := w.extractLsb' 28 1
  let flags : BitVec 4 := w.extractLsb' 16 4
  match o with
  | .spiBegin => .spiBegin bus byte ord mode
  | .spiBeginSlave => .spiBeginSlave bus ord mode
  | .spiEnd => .spiEnd bus
  | .spiRead => .spiRead bus
  | .spiWrite => .spiWrite bus
  | .spiTransfer => .spiTransfer bus byte
  | .spiBaudCalc => .spiBaudCalc bus byte
  | .i2cInit => .i2cInit bus
  | .i2cMasterEnable => .i2cMasterEnable bus flags
  | .i2cMasterXfer => .i2cMasterXfer bus
  | .i2cBusReset => .i2cBusReset bus
  | .i2cTimingCalc => .i2cTimingCalc bus flags

/-- Steps 1 and 2 of the decode order (R92): total on every 32-bit word (R93). -/
def decode (w : Word) : Except DecodeError Instr :=
  match Opcode.ofCode (w.extractLsb' 0 8) with
  | none => .error .illegalOpcode
  | some o => if w &&& o.mask = o.matchWord then .ok (o.operands w) else .error .reservedBits

/-- The command word of a command: the formats C0, CS, CB and CF written field by field, high bits first, every reserved
bit 0 (R86 to R89). -/
def encode : Instr → Word
  | .spiBegin bus tier ord mode => 0#3 ++ ord ++ mode ++ tier ++ 0#4 ++ bus ++ 0x01#8
  | .spiBeginSlave bus ord mode => 0#3 ++ ord ++ mode ++ 0#8 ++ 0#4 ++ bus ++ 0x02#8
  | .spiEnd bus => 0#20 ++ bus ++ 0x03#8
  | .spiRead bus => 0#20 ++ bus ++ 0x04#8
  | .spiWrite bus => 0#20 ++ bus ++ 0x05#8
  | .spiTransfer bus byte => 0#8 ++ byte ++ 0#4 ++ bus ++ 0x06#8
  | .spiBaudCalc bus tier => 0#8 ++ tier ++ 0#4 ++ bus ++ 0x07#8
  | .i2cInit bus => 0#20 ++ bus ++ 0x10#8
  | .i2cMasterEnable bus flags => 0#12 ++ flags ++ 0#4 ++ bus ++ 0x11#8
  | .i2cMasterXfer bus => 0#20 ++ bus ++ 0x12#8
  | .i2cBusReset bus => 0#20 ++ bus ++ 0x13#8
  | .i2cTimingCalc bus flags => 0#12 ++ flags ++ 0#4 ++ bus ++ 0x14#8

/-- The instruction the decoder reads from a row's bits: the command word is one 32-bit register, bit 0 its least
significant bit (R13, R85); the operand registers are no part of the word. -/
def decodeTableWord (nbits w : Nat) : Option Instr :=
  match decode (BitVec.ofNat 32 (w % 2 ^ nbits)) with
  | .ok i => some i
  | .error _ => none

end Sys2Proof
end

