-- ==== Sys2Proof/Config.lean ====
section
/-! DEFINITION. What an implementation fixes: bus identifiers, the decided parameters of spec/00_scope.md R8, the
platform's OPEN parameters as plain data, the choices the environment makes, and the free values (opaque constants
without a body). -/

namespace Sys2Proof

/-- A bus identifier that the spec can make valid: 1, 2, or 3 (R8, decision D5). -/
inductive BusId where
  | b1 | b2 | b3
deriving DecidableEq, Repr, Inhabited

/-- One value per bus identifier: each bus instance has registers of its own (R11). -/
structure Bank (α : Type) where
  b1 : α
  b2 : α
  b3 : α
deriving DecidableEq, Repr, Inhabited

/-- The clock domain of a bus (R8, decision D6). -/
inductive Domain where
  | fast | slow
deriving DecidableEq, Repr

/-- How the I2C clock-control divider is rounded (R8, R107, decision D27). -/
inductive Rounding where
  | ceil | floor
deriving DecidableEq, Repr

/-- One admitted region of caller memory for accesses of one width: the access (a, n) is admitted by the region when
`n = width` and every byte lies in `[base, base + size)`. Lists of regions express every predicate ADMIT(addr, n) of
R67 on the finite address space. -/
structure AdmitRegion where
  base  : Nat
  size  : Nat
  width : Nat
deriving DecidableEq, Repr, Inhabited

/-- The OPEN parameters of R8 that a rule reads, as plain data: whether SPI3 and I2C3 exist, the register block bases
(R78), how many reserved bytes follow the last register of a block (R37, R44: offsets 0x24 and above are reserved),
and ADMIT (R67). No step changes them. -/
structure Platform where
  highDensity : Bool
  i2c3Present : Bool
  spiBase     : Bank Word
  i2cBase     : Bank Word
  blockExtra  : Nat
  admitted    : List AdmitRegion
deriving DecidableEq, Repr, Inhabited

/-- The bus and fault steps of `I2cPer(b)` (R193 to R200). -/
inductive I2cStep where
  | accept | generate | address | address2 | transmit | receive
  | busError | arbitrationLoss | overrun | stop
deriving DecidableEq, Repr, Inhabited

/-- Who takes the next atomic step (R10, R179). `port` is the caller writing the command port registers without issuing
(R23: later changes to the port do not affect the running command). -/
inductive Agent where
  | ctx
  | port (cmd arg0 arg1 arg2 : Word)
  | spiStart (b : BusId)
  | spiComplete (b : BusId)
  | i2c (b : BusId) (k : I2cStep)
  | time
deriving DecidableEq, Repr, Inhabited

/-- One choice of the environment: the agent that moves, the context it concerns (`ctx` and `port` steps), and the
draws of that step (R180): a byte (R182, R187, R198) and a bit (the acknowledge of R194, R195, R197; the line level of
R206). -/
structure Turn where
  agent : Agent
  ctx   : Nat
  byte  : Byte
  bit   : Bool
deriving DecidableEq, Repr, Inhabited

namespace Config

/-- `N_TIERS` (R8, decision D7). -/
def nTiers : Nat := 8

/-- `BR_MAX` (R8, decision D7). -/
def brMax : Nat := 7

/-- `PCLK_FAST_HZ` (R8, decision D6). -/
def pclkFastHz : Nat := 72000000

/-- `PCLK_SLOW_HZ` (R8, decision D6). -/
def pclkSlowHz : Nat := 36000000

/-- `DOMAIN(spi b)`: SPI1 is fast, every other bus slow (R8, decision D6). -/
def spiDomain : BusId → Domain
  | .b1 => .fast
  | .b2 => .slow
  | .b3 => .slow

/-- `DOMAIN(i2c b)`: every I2C bus is slow (R8, decision D6). -/
def i2cDomain : BusId → Domain
  | .b1 => .slow
  | .b2 => .slow
  | .b3 => .slow

/-- The source clock of a domain (R8). -/
def pclkHz : Domain → Nat
  | .fast => pclkFastHz
  | .slow => pclkSlowHz

/-- `I2C_CCR_ROUNDING` (R8, decision D27). -/
def i2cCcrRounding : Rounding := .ceil

/-- `I2C_REMAP_BUSES` = {1} (R8, R145, decision D28). -/
def i2cRemap : BusId → Bool
  | .b1 => true
  | .b2 => false
  | .b3 => false

/-- What an address of caller memory that the state does not list reads as. DESIGN CHOICE (log entry 4), unsafe: the
spec gives caller memory no power-on contents (R233). -/
def unwrittenByte : Byte := 0

/-- The platform this engine is built into: free (R8, section 8 of 92_eei_decisions.md), but for R76's condition on the
register blocks, which `powerOnPlatform` sees to. Log entry 2. -/
opaque platform : Platform

/-- `N_CTX` less one: free (R8, R227: N_CTX is at least 1). Log entry 2. -/
opaque extraContexts : Nat

/-- The environment's choice for the n-th step once the choices listed in the state are used up: free (R10, R180: any
agent may be scheduled at any point, and a draw is any value). Log entry 1. -/
opaque choice : Nat → Turn

/-- The time source's count at power-on: free (R56, R233: a draw). Log entry 5. -/
opaque powerOnNow : Word

/-- The GPIO output latches of SCL at power-on: free (R55, R233: a draw). Log entry 6. -/
opaque powerOnScl : BusId → Bool

/-- The GPIO output latches of SDA at power-on: free (R55, R233: a draw). Log entry 6. -/
opaque powerOnSda : BusId → Bool

end Config

end Sys2Proof
end

