-- ==== Sys2Proof/Machine/Platform.lean ====
section
/-! DEFINITION. The platform: banks of one value per bus, which buses exist (spec/00_scope.md R8), where their register
blocks lie and that they are disjoint (spec/20_memory.md R62, R76, R78), and the platform at power-on. -/

namespace Sys2Proof

/-! ## Banks -/

/-- The value of a bank for a bus. -/
def Bank.get {α : Type} (x : Bank α) : BusId → α
  | .b1 => x.b1
  | .b2 => x.b2
  | .b3 => x.b3

/-- A bank with the value for one bus replaced. -/
def Bank.put {α : Type} (x : Bank α) (b : BusId) (v : α) : Bank α :=
  match b with
  | .b1 => { x with b1 := v }
  | .b2 => { x with b2 := v }
  | .b3 => { x with b3 := v }

end Sys2Proof

namespace Sys2Proof.Machine

/-! ## Bus identifiers -/

/-- `b ∈ SPI_BUS_IDS` (R8): 1, 2, and 3 on a high-density platform. -/
def spiValid (p : Platform) : BusId → Bool
  | .b1 => true
  | .b2 => true
  | .b3 => p.highDensity

/-- `b ∈ I2C_BUS_IDS` (R8): 1, 2, and 3 if I2C3 is present. -/
def i2cValid (p : Platform) : BusId → Bool
  | .b1 => true
  | .b2 => true
  | .b3 => p.i2c3Present

/-! ## Register blocks -/

/-- The bytes of a register block: nine 32-bit registers and the reserved bytes after them (R37, R44; log entry 12). -/
def blockSize (p : Platform) : Nat := 0x24 + p.blockExtra

/-- The access meets the register block at `base`. -/
def meetsBlock (p : Platform) (base : Word) (a n : Nat) : Bool :=
  decide (a < base.toNat + blockSize p) && decide (base.toNat < a + n)

/-- The bases of the register blocks of the bus instances that exist (R8, R61). -/
def blockBases (p : Platform) : List Word :=
  ([.b1, .b2, .b3].filter (spiValid p)).map p.spiBase.get ++ ([.b1, .b2, .b3].filter (i2cValid p)).map p.i2cBase.get

/-- The access falls in a register block of an existing bus instance (R62, R67). -/
def inRegisterBlock (p : Platform) (a n : Nat) : Bool := (blockBases p).any fun base => meetsBlock p base a n

/-- The register blocks of distinct bus instances are disjoint (R76). -/
def blocksApart (p : Platform) : Bool :=
  decide ((blockBases p).Pairwise fun x y => x.toNat + blockSize p ≤ y.toNat ∨ y.toNat + blockSize p ≤ x.toNat)

/-- The platform at power-on: the free one where its register blocks are disjoint, as R76 says they are, and the free one
with the bases of R78 and no reserved bytes where they are not. I2C3 has no value in R78; 0x40005C00 is the model's
(DESIGN CHOICE, log entry 2: every platform that R76 admits is still a value of the free one). -/
def powerOnPlatform : Platform :=
  if blocksApart Config.platform then Config.platform
  else { Config.platform with
    spiBase    := { b1 := 0x40013000, b2 := 0x40003800, b3 := 0x40003C00 }
    i2cBase    := { b1 := 0x40005400, b2 := 0x40005800, b3 := 0x40005C00 }
    blockExtra := 0 }

end Sys2Proof.Machine
end

