-- ==== Sys2Proof/Machine/State.lean ====
section
/-! DEFINITION. The state of the transfer engine as plain data (spec/10_state.md R23 to R60, spec/48_peripheral_agents.md
R185, spec/70_reset_and_hazards.md R233), the reasons a step can stop, and the state after power-on. -/

namespace Sys2Proof.Machine

/-! ## Names of the spec -/

/-- The kinds of configuration error (R209). -/
inductive ErrorKind where
  | invalidBus | invalidMode | invalidTier | unreachableTier | illegalCommand
  | badXferArgs | i2cClock | concurrentUse | disableWhileBusy | invalidFlags
deriving DecidableEq, Repr, Inhabited

/-- The fault record of a halted context: kind, command word and BUS field (R28, R210). -/
structure FaultRecord where
  kind : ErrorKind
  cmd  : Word
  bus  : BitVec 4
deriving DecidableEq, Repr, Inhabited

/-- Device state of an I2C bus (R32). -/
inductive DevState where
  | disabled | idle | busy | transferDone | error
deriving DecidableEq, Repr, Inhabited

/-- Pin state of a bus (R54). -/
inductive PinState where
  | unconfigured | spiMaster | spiSlave | i2cAF (remap : Bool) | gpioOD
deriving DecidableEq, Repr, Inhabited

/-- Phase of an I2C peripheral (R53). -/
inductive Phase where
  | idle | startReq | started | hdrSent | addressed | tx | rx | failed | lost
deriving DecidableEq, Repr, Inhabited

/-- Direction of an I2C byte or address (R53, R185). -/
inductive Dir where
  | write | read
deriving DecidableEq, Repr, Inhabited

/-- Role of an SPI bus in a frame record (R185). -/
inductive Role where
  | master | slave
deriving DecidableEq, Repr, Inhabited

/-- An I2C line driven as GPIO (R55, R206). -/
inductive Line where
  | scl | sda
deriving DecidableEq, Repr, Inhabited

/-- A bus instance: an SPI or an I2C bus (R27, R54). -/
inductive InstId where
  | spi (b : BusId)
  | i2c (b : BusId)
deriving DecidableEq, Repr, Inhabited

/-- One record of the bus-event sequence (R185). `delay` counts microseconds (R207). -/
inductive BusEvent where
  | spiFrame (b : BusId) (role : Role) (tx rx : Byte) (lsbfirst : Bool) (mode : BitVec 2)
  | i2cStart (b : BusId) (repeated : Bool)
  | i2cByte (b : BusId) (dir : Dir) (value : Byte) (ack : Bool)
  | i2cStop (b : BusId)
  | pin (i : InstId) (config : PinState)
  | gpio (b : BusId) (line : Line) (level : Bool)
  | delay (microseconds : Nat)
deriving DecidableEq, Repr, Inhabited

/-! ## Positions: one micro-step of a command's pseudocode (R12, R26) -/

/-- SPI.BEGIN and SPI.BEGIN_SLAVE after the first disable (R115). -/
inductive CfgPos where
  | writeCr1 | pins | enable
deriving DecidableEq, Repr, Inhabited

/-- SPI.END after the CR1 read (R124). -/
inductive EndPos where
  | drain | discard | waitTxe | waitBsy | disable
deriving DecidableEq, Repr, Inhabited

/-- SPI.READ (R127): `k` bytes are stored; `v` is the byte just read. -/
inductive ReadPos where
  | wait (k : Nat)
  | data (k : Nat)
  | store (k : Nat) (v : Byte)
deriving DecidableEq, Repr, Inhabited

/-- SPI.WRITE (R129, R130): `txed` bytes were handed off by earlier SpiTx calls, `t` by the current one; `v` is the byte
fetched. -/
inductive WritePos where
  | status (txed t : Nat)
  | fetch (txed t : Nat)
  | data (txed t : Nat) (v : Byte)
deriving DecidableEq, Repr, Inhabited

/-- SPI.TRANSFER (R134); `r` is the byte read. -/
inductive TransferPos where
  | status | write | close | wait | data
  | result (r : Byte)
deriving DecidableEq, Repr, Inhabited

/-- I2C.INIT after the device-state write (R139). -/
inductive InitPos where
  | flags | reset
deriving DecidableEq, Repr, Inhabited

/-- I2C.MASTER_ENABLE after the PE clear (R143). -/
inductive EnablePos where
  | cr2 | ccr | trise | pins | state | enable
deriving DecidableEq, Repr, Inhabited

/-- The bus-reset sequence (R148), in the order of its pseudocode. -/
inductive BusResetPos where
  | releaseScl | releaseSda | gpioMode | readSda
  | readScl | delay1 | clockLow | delay2 | clockHigh | delay3
  | startSda | delay4 | startScl | delay5 | stopScl | delay6 | stopSda
deriving DecidableEq, Repr, Inhabited

/-- The loaded message of I2C.MASTER_XFER: what LoadMessage returns (R157). -/
structure Msg where
  addr : Half
  rd   : Bool
  ten  : Bool
  len  : Nat
  data : Word
deriving DecidableEq, Repr, Inhabited

/-- I2C.MASTER_XFER between the guard and the first message: the validation reads of descriptor `i` (R155) and the entry
updates (R156). -/
inductive EntryPos where
  | checkAddr (i : Nat)
  | checkFlags (i : Nat) (addr : Half)
  | checkLen (i : Nat) (addr flags : Half)
  | bad
  | msgs | count | timeout | errorFlags | clearSr1 | now
  | t0 (now : Word)
deriving DecidableEq, Repr, Inhabited

/-- The message load (R153 step 4, R157): `i` is the loop index. -/
inductive LoadPos where
  | index (i : Nat)
  | addr
  | flags (addr : Half)
  | len (addr flags : Half)
  | data (addr flags len : Half)
  | clear (m : Msg)
deriving DecidableEq, Repr, Inhabited

/-- The wait points of I2C.MASTER_XFER (R153): what WaitI2C waits for. `addr` is the ADDR wait after the first address
(7-bit or 10-bit), `addrR` the one after a read header; `rxne k` and `txe k` belong to data byte k. -/
inductive WaitPt where
  | pendStart | sb | addr | add10 | sbR | addrR
  | rxne (k : Nat) | txe (k : Nat) | btf
  | pendStop | pendDone
deriving DecidableEq, Repr, Inhabited

/-- The micro-steps of one WaitI2C iteration (R165): the SR1 read, the CR1 read of a CR1 condition, the time read. -/
inductive WaitStage where
  | sr1 | cr1 | now
deriving DecidableEq, Repr, Inhabited

/-- The exits of I2C.MASTER_XFER past its guard (R169, R170, R172). -/
inductive Exit where
  | ok | protocol | timeout
deriving DecidableEq, Repr, Inhabited

/-- I2C.MASTER_XFER inside a message or after the last one (R153 steps 4 and 5, R169, R170). -/
inductive XferPos where
  | wait (w : WaitPt) (t : WaitStage)
  | ack | start | addr7 | header | low | clearMid | restart | headerR | clearAddr
  | ackOff (k : Nat) | rxData (k : Nat) | rxStore (k : Nat) (v : Byte) | rxCount (k : Nat)
  | txFetch (k : Nat) | txData (k : Nat) (v : Byte) | txCount (k : Nat)
  | stop
  | faultFlags (sr1 : Word)
  | exitStop (e : Exit) | exitState (e : Exit) | exitFlight (e : Exit) | exitResult (e : Exit)
deriving DecidableEq, Repr, Inhabited

/-- `pos(c)` (R26): `ready` when no command runs; `start` when a command is issued and has taken no micro-step; `ret` at
the return micro-step. -/
inductive Pos where
  | ready | start | ret
  | cfg (p : CfgPos)
  | ending (p : EndPos)
  | reading (p : ReadPos)
  | writing (p : WritePos)
  | transfer (p : TransferPos)
  | init (p : InitPos)
  | enabling (p : EnablePos)
  | busReset (p : BusResetPos)
  | xferEntry (p : EntryPos)
  | xferLoad (p : LoadPos)
  | xfer (m : Msg) (p : XferPos)
deriving DecidableEq, Repr, Inhabited

/-! ## Contexts -/

/-- CMD, ARG0, ARG1 and ARG2 (R23), as the port's registers or as a snapshot of them. -/
structure Port where
  cmd  : Word
  arg0 : Word
  arg1 : Word
  arg2 : Word
deriving DecidableEq, Repr, Inhabited

/-- What a caller does between commands: present a command on its port (R23, R26), read RES (R24), or write a byte of its
own memory (R83). -/
inductive CallerAct where
  | issue (p : Port)
  | readRes
  | store (addr : Word) (v : Byte)
deriving DecidableEq, Repr, Inhabited

/-- A caller execution context `Ctx(c)` (R10, R23 to R28): the command port, RES and whether a command has written it, the
last value the caller read of RES, the snapshot taken at issue, the position, the completed-command count, the fault
record, and what its caller will still do, in order (R100; the host interface, log entry 3). -/
structure Ctx where
  port       : Port
  res        : Word
  resWritten : Bool
  lastRead   : Word
  issued     : Port
  pos        : Pos
  cc         : Nat
  fault      : Option FaultRecord
  program    : List CallerAct
deriving DecidableEq, Repr, Inhabited

/-! ## Bus instances -/

/-- An SPI bus instance: its register block (R37 to R42; DR is the two buffers, R41), the hidden state of R43
(`sh_active` is SR.BSY), its pins (R54) and its in-flight owner (R27). -/
structure SpiBus where
  cr1      : Word
  cr2      : Word
  sr       : Word
  crcpr    : Word
  rxcrcr   : Word
  txcrcr   : Word
  i2scfgr  : Word
  i2spr    : Word
  txbuf    : Byte
  rxbuf    : Byte
  shTx     : Byte
  armedDR  : Bool
  pins     : PinState
  inflight : Option Nat
deriving DecidableEq, Repr, Inhabited

/-- The transfer cursor (R35). -/
structure Cursor where
  msgs    : Word
  count   : Half
  idx     : Half
  t0      : Word
  timeout : Word
deriving DecidableEq, Repr, Inhabited

/-- The engine's state of an I2C bus: `dev(b)` (R32, R34, R35). -/
structure Dev where
  state      : DevState
  errorFlags : Half
  cursor     : Cursor
deriving DecidableEq, Repr, Inhabited

/-- An I2C bus instance: its register block (R44 to R52), the hidden peripheral state of R53, pins (R54), GPIO latches
(R55), in-flight owner (R27) and device state. `received` is the model's own record of the last received byte, to say R48
with: no step reads it (log entry 23). -/
structure I2cBus where
  cr1       : Word
  cr2       : Word
  oar1      : Word
  oar2      : Word
  dr        : Word
  received  : Byte
  sr1       : Word
  sr2       : Word
  ccr       : Word
  trise     : Word
  phase     : Phase
  dir       : Dir
  txPending : Bool
  nacked    : Bool
  armed1    : Bool
  pins      : PinState
  gpioScl   : Bool
  gpioSda   : Bool
  inflight  : Option Nat
  dev       : Dev
deriving DecidableEq, Repr, Inhabited

/-- Caller memory: (address, byte) pairs, addresses strictly rising, no byte equal to `Config.unwrittenByte` (R61, R63;
log entry 4). -/
abbrev Memory := List Host.Cell

/-- The whole machine (R10): the contexts (at least one, R8), the bus instances (one record per bus identifier, R11), the
time source (R56), the bus-event record (R185), caller memory (R61), the platform's parameters (R8), the environment's
choices for the coming steps, and the number of steps taken (the index of the free choice, log entry 1). -/
structure State where
  ctxs   : List Ctx
  spi    : Bank SpiBus
  i2c    : Bank I2cBus
  now    : Word
  events : List BusEvent
  mem    : Memory
  plat   : Platform
  env    : List Turn
  seq    : Nat
deriving DecidableEq, Repr, Inhabited

/-! ## Stops -/

/-- Why the machine stops with a fault. -/
inductive Fault where
  /-- The caller reads RES before any command has written it (R24: a fault, not zero; S1 of
  93_implementation_defined.md: the run ends in a fault). Raised by the caller's step. Safe. -/
  | resUnwritten
  /-- A meaning is asked for a position of another command, or of none. Raised by every meaning; no run reaches it, because
  a context's position belongs to the command it has issued. Safe. -/
  | lostPosition
deriving DecidableEq, Repr

/-- Why the machine gives no meaning. -/
inductive Refusal where
  /-- An instruction of the opcode table without a meaning yet. Raised by `exec`'s refused arms, of which there are none.
  Safe. -/
  | notModelled (mnemonic : String)
  /-- I2C CR2, CCR or TRISE written while CR1.PE = 1 (R225: no meaning; no rule reaches it). Raised by the timing-register
  writes of I2C.MASTER_ENABLE. Safe. -/
  | timingWhileEnabled
deriving DecidableEq, Repr

/-- The outcome of a micro-step or of an agent step. -/
abbrev Result := Host.Outcome State Fault Refusal

/-! ## Power-on (R233) -/

/-- A command port with nothing presented (log entry 7: zero is a DESIGN CHOICE). -/
def Port.reset : Port := { cmd := 0, arg0 := 0, arg1 := 0, arg2 := 0 }

/-- A context at power-on: no command issued, RES not written, no fault (R24, R26, R28, R233). -/
def Ctx.reset : Ctx where
  port       := Port.reset
  res        := 0
  resWritten := false
  lastRead   := 0
  issued     := Port.reset
  pos        := .ready
  cc         := 0
  fault      := none
  program    := []

/-- An SPI bus instance at power-on (R37, R43, R54, R233). -/
def SpiBus.reset : SpiBus where
  cr1      := 0x0000
  cr2      := 0x0000
  sr       := 0x0002
  crcpr    := 0x0007
  rxcrcr   := 0x0000
  txcrcr   := 0x0000
  i2scfgr  := 0x0000
  i2spr    := 0x0002
  txbuf    := 0
  rxbuf    := 0
  shTx     := 0
  armedDR  := false
  pins     := .unconfigured
  inflight := none

/-- The transfer cursor at power-on: no value (R35; log entry 7: zero is a DESIGN CHOICE). -/
def Cursor.reset : Cursor := { msgs := 0, count := 0, idx := 0, t0 := 0, timeout := 0 }

/-- The engine's I2C state at power-on (R32, R34, R233). -/
def Dev.reset : Dev := { state := .disabled, errorFlags := 0, cursor := Cursor.reset }

/-- An I2C bus instance at power-on (R44, R53, R54, R55, R233); the latches are free values. -/
def I2cBus.reset (b : BusId) : I2cBus where
  cr1       := 0x0000
  cr2       := 0x0000
  oar1      := 0x0000
  oar2      := 0x0000
  dr        := 0x0000
  received  := 0x00
  sr1       := 0x0000
  sr2       := 0x0000
  ccr       := 0x0000
  trise     := 0x0002
  phase     := .idle
  dir       := .write
  txPending := false
  nacked    := false
  armed1    := false
  pins      := .unconfigured
  gpioScl   := Config.powerOnScl b
  gpioSda   := Config.powerOnSda b
  inflight  := none
  dev       := Dev.reset

/-- The machine right after power-on (R233). -/
def State.reset : State where
  ctxs   := Ctx.reset :: List.replicate Config.extraContexts Ctx.reset
  spi    := { b1 := SpiBus.reset, b2 := SpiBus.reset, b3 := SpiBus.reset }
  i2c    := { b1 := I2cBus.reset .b1, b2 := I2cBus.reset .b2, b3 := I2cBus.reset .b3 }
  now    := Config.powerOnNow
  events := []
  mem    := []
  plat   := powerOnPlatform
  env    := []
  seq    := 0

end Sys2Proof.Machine
end

