-- ==== Sys2Proof/Machine/Flags.lean ====
section
/-! DEFINITION. Register bits: the masks of the fields the rules name (spec/10_state.md R38 to R52), tests of them, and
setting and clearing them. There are no ALU flags (R58): these are all the status flags of the machine. -/

namespace Sys2Proof.Machine

/-! ## Bits of a register -/

/-- The word with bit `i` alone set. -/
def bitMask (i : Nat) : Word := 1#32 <<< i

/-- Bit `i` of a register (R13). -/
def testBit (v : Word) (i : Nat) : Bool := v.getLsbD i

/-- A register with bit `i` set. -/
def setBit (v : Word) (i : Nat) : Word := v ||| bitMask i

/-- A register with bit `i` cleared. -/
def clearBit (v : Word) (i : Nat) : Word := v &&& ~~~(bitMask i)

/-- A register with bit `i` set to `x`: `RegModify(P.R, F <- x)` of a one-bit field (R14). -/
def putBit (v : Word) (i : Nat) (x : Bool) : Word := if x then setBit v i else clearBit v i

/-! ## SPI (R38, R40) -/

/-- CR1.MSTR. -/
def spiMSTR : Nat := 2
/-- CR1.SPE. -/
def spiSPE : Nat := 6
/-- CR1.LSBFIRST. -/
def spiLSBFIRST : Nat := 7
/-- SR.RXNE. -/
def spiRXNE : Nat := 0
/-- SR.TXE. -/
def spiTXE : Nat := 1
/-- SR.CRCERR. -/
def spiCRCERR : Nat := 4
/-- SR.OVR. -/
def spiOVR : Nat := 6
/-- SR.BSY. -/
def spiBSY : Nat := 7

/-- The SPI CR1 bits that exist: 15:0 (R9, R38, R72). -/
def spiCr1Mask : Word := 0x0000FFFF

/-- SPI(b) is enabled (R31). -/
def SpiBus.spe (x : SpiBus) : Bool := testBit x.cr1 spiSPE
/-- SPI(b) is a master (R29, R38). -/
def SpiBus.mstr (x : SpiBus) : Bool := testBit x.cr1 spiMSTR
/-- SPI(b) sends LSB-first (R29, R38). -/
def SpiBus.lsbfirst (x : SpiBus) : Bool := testBit x.cr1 spiLSBFIRST
/-- The clock mode, CR1[1:0] (R29, R38). -/
def SpiBus.mode (x : SpiBus) : BitVec 2 := x.cr1.extractLsb' 0 2
/-- The receive buffer holds an unread byte (R40, R43). -/
def SpiBus.rxne (x : SpiBus) : Bool := testBit x.sr spiRXNE
/-- The transmit buffer holds no unsent byte (R40, R43). -/
def SpiBus.txe (x : SpiBus) : Bool := testBit x.sr spiTXE
/-- A received byte was lost (R40, R186). -/
def SpiBus.ovr (x : SpiBus) : Bool := testBit x.sr spiOVR
/-- `sh_active(b)`: a frame is in the shift register; SR.BSY is 1 exactly then (R43), so it is stored once, as SR.BSY. -/
def SpiBus.shActive (x : SpiBus) : Bool := testBit x.sr spiBSY

/-- The role recorded with a frame (R186). -/
def SpiBus.role (x : SpiBus) : Role := if x.mstr then .master else .slave

/-! ## I2C (R45 to R52) -/

/-- CR1.PE. -/
def i2cPE : Nat := 0
/-- CR1.START. -/
def i2cSTART : Nat := 8
/-- CR1.STOP. -/
def i2cSTOP : Nat := 9
/-- CR1.ACK. -/
def i2cACK : Nat := 10
/-- SR1.SB. -/
def i2cSB : Nat := 0
/-- SR1.ADDR. -/
def i2cADDR : Nat := 1
/-- SR1.BTF. -/
def i2cBTF : Nat := 2
/-- SR1.ADD10. -/
def i2cADD10 : Nat := 3
/-- SR1.RXNE. -/
def i2cRXNE : Nat := 6
/-- SR1.TXE. -/
def i2cTXE : Nat := 7
/-- SR1.BERR. -/
def i2cBERR : Nat := 8
/-- SR1.ARLO. -/
def i2cARLO : Nat := 9
/-- SR1.AF. -/
def i2cAF : Nat := 10
/-- SR1.OVR. -/
def i2cOVR : Nat := 11
/-- SR2.MSL. -/
def i2cMSL : Nat := 0
/-- SR2.BUSY. -/
def i2cBUSY : Nat := 1
/-- SR2.TRA. -/
def i2cTRA : Nat := 2

/-- `ERRMASK` (R17): BERR, ARLO, AF, OVR, TIMEOUT of SR1. -/
def errMask : Word := 0x00004F00
/-- `PENDMASK` (R17): START, STOP, PEC of CR1. -/
def pendMask : Word := 0x00001300
/-- The I2C CR1 bits that exist: all of 15:0 but the reserved bits 2 and 14 (R45, R73). -/
def i2cCr1Mask : Word := 0x0000BFFB
/-- The I2C CR2 bits that exist: 5:0 and 12:8 (R46). -/
def i2cCr2Mask : Word := 0x00001F3F
/-- The I2C CCR bits that exist: 11:0, 14 and 15 (R51). -/
def i2cCcrMask : Word := 0x0000CFFF
/-- The I2C TRISE bits that exist: 5:0 (R52). -/
def i2cTriseMask : Word := 0x0000003F
/-- The write-0-to-clear bits of SR1: 8, 9, 10, 11, 12, 14, 15 (R49, R73). -/
def sr1ClearMask : Word := 0x0000DF00
/-- The error bits of SR1 that a peripheral disable keeps: 15:8 (R201). -/
def sr1ErrorBits : Word := 0x0000FF00
/-- What I2C.MASTER_XFER writes to SR1 at entry (R153, R156). -/
def sr1EntryWrite : Word := 0x0000B0FF

/-- The peripheral is enabled (R45). -/
def I2cBus.pe (x : I2cBus) : Bool := testBit x.cr1 i2cPE
/-- A start is requested (R45, R193). -/
def I2cBus.startReq (x : I2cBus) : Bool := testBit x.cr1 i2cSTART
/-- A stop is requested (R45, R200). -/
def I2cBus.stopReq (x : I2cBus) : Bool := testBit x.cr1 i2cSTOP
/-- The next received byte is acknowledged (R45, R198). -/
def I2cBus.ack (x : I2cBus) : Bool := testBit x.cr1 i2cACK
/-- Master mode (R50). -/
def I2cBus.msl (x : I2cBus) : Bool := testBit x.sr2 i2cMSL
/-- The bus is busy (R50). -/
def I2cBus.busy (x : I2cBus) : Bool := testBit x.sr2 i2cBUSY

/-- The pins connect the peripheral to its lines: `pins(i2c b) = I2cAF(_)` (R193, R202). -/
def I2cBus.connected (x : I2cBus) : Bool :=
  match x.pins with
  | .i2cAF _ => true
  | .unconfigured | .spiMaster | .spiSlave | .gpioOD => false

/-- No start, stop or PEC operation is pending in a CR1 value (R153, R158). -/
def noPending (cr1 : Word) : Bool := cr1 &&& pendMask == 0

/-- A protocol fault is visible in an SR1 value (R165, R168). -/
def hasFault (sr1 : Word) : Bool := sr1 &&& errMask != 0

end Sys2Proof.Machine
end

