-- ==== Sys2Proof/Machine/Operands.lean ====
section
/-! DEFINITION. Operands: BUS fields and operand registers (spec/30_encoding.md R90, R92), register values built from
them (spec/41_spi_engine.md R113, R114), the two calculators (spec/40_clock_calculators.md R102, R107), message
descriptors (spec/20_memory.md R65, spec/43_i2c_master_xfer.md R155) and the address bytes of a message (R159). -/

namespace Sys2Proof.Machine

/-! ## Bus identifiers -/

/-- The bus identifier a BUS field names, if some platform has it. -/
def busOfField (f : BitVec 4) : Option BusId :=
  if f = 1 then some .b1 else if f = 2 then some .b2 else if f = 3 then some .b3 else none

/-- The SPI bus a BUS field names on this platform (R92 step 3). -/
def spiBusOf (p : Platform) (f : BitVec 4) : Option BusId :=
  match busOfField f with
  | none => none
  | some b => if spiValid p b then some b else none

/-- The I2C bus a BUS field names on this platform (R92 step 3). -/
def i2cBusOf (p : Platform) (f : BitVec 4) : Option BusId :=
  match busOfField f with
  | none => none
  | some b => if i2cValid p b then some b else none

/-- The code of a configuration-error kind (R209). -/
def ErrorKind.code : ErrorKind → Nat
  | .invalidBus => 1
  | .invalidMode => 2
  | .invalidTier => 3
  | .unreachableTier => 4
  | .illegalCommand => 5
  | .badXferArgs => 6
  | .i2cClock => 7
  | .concurrentUse => 8
  | .disableWhileBusy => 9
  | .invalidFlags => 10

/-- The encoding of the device state (R32). -/
def DevState.code : DevState → Nat
  | .disabled => 0
  | .idle => 1
  | .busy => 2
  | .transferDone => 3
  | .error => 4

/-- The result code of an exit of I2C.MASTER_XFER (R17, R18, R173). -/
def Exit.code : Exit → Word
  | .ok => 0x00000000
  | .protocol => 0xFFFFFFFF
  | .timeout => 0xFFFFFFFE

/-- `I2C_ERROR_BUSY`, -3 (R17, R18, R173). -/
def i2cErrorBusy : Word := 0xFFFFFFFD

/-- The device state an exit resolves to (R33, R169, R170, R172). -/
def Exit.devState : Exit → DevState
  | .ok => .transferDone
  | .protocol => .error
  | .timeout => .error

/-- The bits of a byte in the order they go on the wire: most significant first, or least significant first (R66). -/
def wireBits (lsbfirst : Bool) (v : Byte) : List Bool :=
  let lsb := (List.range 8).map v.getLsbD
  if lsbfirst then lsb else lsb.reverse

/-- The wire bits of an event that moves a byte (R66): an SPI frame's sent byte in its bit order, an I2C byte most
significant bit first. -/
def BusEvent.wire : BusEvent → List Bool
  | .spiFrame _ _ tx _ lsbfirst _ => wireBits lsbfirst tx
  | .i2cByte _ _ value _ => wireBits false value
  | .i2cStart _ _ | .i2cStop _ | .pin _ _ | .gpio _ _ _ | .delay _ => []

/-! ## Register maps -/

/-- The registers of an SPI block (R37). -/
inductive SpiReg where
  | cr1 | cr2 | sr | dr | crcpr | rxcrcr | txcrcr | i2scfgr | i2spr
deriving DecidableEq, Repr

/-- The registers of an I2C block (R44). -/
inductive I2cReg where
  | cr1 | cr2 | oar1 | oar2 | dr | sr1 | sr2 | ccr | trise
deriving DecidableEq, Repr

/-- The word offset of an SPI register from `SPI_BASE(b)` (R37). -/
def SpiReg.offset : SpiReg → Nat
  | .cr1 => 0x00
  | .cr2 => 0x04
  | .sr => 0x08
  | .dr => 0x0C
  | .crcpr => 0x10
  | .rxcrcr => 0x14
  | .txcrcr => 0x18
  | .i2scfgr => 0x1C
  | .i2spr => 0x20

/-- The word offset of an I2C register from `I2C_BASE(b)` (R44). -/
def I2cReg.offset : I2cReg → Nat
  | .cr1 => 0x00
  | .cr2 => 0x04
  | .oar1 => 0x08
  | .oar2 => 0x0C
  | .dr => 0x10
  | .sr1 => 0x14
  | .sr2 => 0x18
  | .ccr => 0x1C
  | .trise => 0x20

/-! ## SPI configuration values -/

/-- `MasterCR1(ord, m, br)` (R113): LSBFIRST = 1 - ord, SSM, SSI, BR, MSTR, mode; SPE = 0. -/
def masterCr1 (ord : BitVec 1) (m : BitVec 2) (br : BitVec 3) : Word :=
  ((1 - ord).setWidth 32 <<< 7) ||| (1#32 <<< 9) ||| (1#32 <<< 8) ||| (br.setWidth 32 <<< 3) ||| (1#32 <<< 2)
    ||| m.setWidth 32

/-- `SlaveCR1(ord, m)` (R114): bit order and mode alone. -/
def slaveCr1 (ord : BitVec 1) (m : BitVec 2) : Word := ((1 - ord).setWidth 32 <<< 7) ||| m.setWidth 32

/-- MODE[1:0] of a valid MODE (R118, R121). -/
def modeBits (mode : BitVec 4) : BitVec 2 := mode.setWidth 2

/-! ## The SPI baud-rate calculator -/

/-- `SpiBaud(b, tier)` for a clock domain (R102): the BR code, or the configuration error. -/
def spiBaud (d : Domain) (tier : BitVec 8) : Except ErrorKind (BitVec 3) :=
  if Config.nTiers ≤ tier.toNat then .error .invalidTier
  else
    let br := tier.toNat + (match d with | .fast => 1 | .slow => 0)
    if Config.brMax < br then .error .unreachableTier else .ok (BitVec.ofNat 3 br)

/-- The SPI clock in Hz for a BR code and a source clock: divider 2^(br+1) (R105). -/
def spiClockHz (pclk : Nat) (br : BitVec 3) : Nat := pclk / 2 ^ (br.toNat + 1)

/-! ## The I2C timing calculator -/

/-- What `I2cTiming` returns (R107). -/
structure Timing where
  freq   : Nat
  ccrReg : Word
  trise  : Nat
deriving DecidableEq, Repr

/-- `Round(n, d)` (R107). -/
def roundDiv (r : Rounding) (n d : Nat) : Nat :=
  match r with
  | .ceil => (n + d - 1) / d
  | .floor => n / d

/-- `I2cTiming` for a source clock and a rounding (R107). -/
def i2cTimingAt (pclk : Nat) (r : Rounding) (flags : BitVec 4) : Except ErrorKind Timing :=
  let f := pclk / 1000000
  let fast := flags.getLsbD 0
  let duty := flags.getLsbD 1 && fast
  if f < 2 || 36 < f then .error .i2cClock
  else if fast && decide (f < 4) then .error .i2cClock
  else
    let divisor := if fast then (if duty then 400000 * 25 else 400000 * 3) else 100000 * 2
    let cmin := if fast then 1 else 4
    let trise := if fast then 300 * f / 1000 + 1 else f + 1
    let ccr := max (roundDiv r pclk divisor) cmin
    if 0xFFF < ccr then .error .i2cClock
    else
      .ok { freq := f
            ccrReg := ((BitVec.ofBool fast).setWidth 32 <<< 15) ||| ((BitVec.ofBool duty).setWidth 32 <<< 14)
              ||| BitVec.ofNat 32 ccr
            trise := trise }

/-- `I2cTiming(b, flags)` with the decided parameters (R8, R107). -/
def i2cTiming (b : BusId) (flags : BitVec 4) : Except ErrorKind Timing :=
  i2cTimingAt (Config.pclkHz (Config.i2cDomain b)) Config.i2cCcrRounding flags

/-- The CR2 value I2C.MASTER_ENABLE writes: f[5:0] (R143). -/
def Timing.cr2 (t : Timing) : Word := (BitVec.ofNat 6 t.freq).setWidth 32

/-- The TRISE value I2C.MASTER_ENABLE writes: trise[5:0] (R143). -/
def Timing.triseReg (t : Timing) : Word := (BitVec.ofNat 6 t.trise).setWidth 32

/-- RES of I2C.TIMING_CALC (R108). -/
def Timing.packed (t : Timing) : Word :=
  ((BitVec.ofNat 6 t.freq).setWidth 32 <<< 24) ||| ((BitVec.ofNat 6 t.trise).setWidth 32 <<< 16)
    ||| (t.ccrReg.setWidth 16).setWidth 32

/-! ## I2C.MASTER_XFER -/

/-- `count` = ARG1[15:0] (R90, R152). -/
def countOf (arg1 : Word) : Half := arg1.setWidth 16

/-- The operand checks of XferValidate before the descriptors (R155): ARG1[31:16] = 0, count ≠ 0, msgs a multiple of 4. -/
def xferArgsOk (msgs arg1 : Word) : Bool :=
  arg1.extractLsb' 16 16 == 0 && countOf arg1 != 0 && msgs.toNat % 4 == 0

/-- The address of descriptor i: `msgs + 12*i`, a mathematical integer (R13, R65; log entry 13). -/
def descAddr (msgs : Word) (i : Nat) : Nat := msgs.toNat + 12 * i

/-- READ, flags bit 0 (R65). -/
def flagRead (flags : Half) : Bool := flags.getLsbD 0

/-- TENBIT, flags bit 1 (R65). -/
def flagTen (flags : Half) : Bool := flags.getLsbD 1

/-- The four descriptor checks of R155. -/
def descOk (addr flags len : Half) : Bool :=
  flags.extractLsb' 2 14 == 0
    && (flagTen flags || decide (addr.toNat < 0x80))
    && (!flagTen flags || decide (addr.toNat < 0x400))
    && !(flagRead flags && len == 0)

/-- What LoadMessage returns for the fields it read (R157). -/
def msgOf (addr flags len : Half) (data : Word) : Msg where
  addr := addr
  rd   := flagRead flags
  ten  := flagTen flags
  len  := len.toNat
  data := data

/-- The 7-bit address byte `addr[6:0] << 1 | rd` (R159). -/
def Msg.addr7Byte (m : Msg) : Byte := m.addr.extractLsb' 0 7 ++ BitVec.ofBool m.rd

/-- The 10-bit header `11110 a9 a8 rw`, `rw` = 0 for the write header and 1 for the read header (R159). -/
def Msg.headerByte (m : Msg) (rw : Bool) : Byte := 0b11110#5 ++ m.addr.extractLsb' 8 2 ++ BitVec.ofBool rw

/-- The low address byte `addr[7:0]` (R159). -/
def Msg.lowByte (m : Msg) : Byte := m.addr.extractLsb' 0 8

/-- A 10-bit header in the write direction, as the peripheral recognises it: `a[7:3] = 11110`, `a[0] = 0` (R194). -/
def isWriteHeader (a : Byte) : Bool := a.extractLsb' 3 5 == 0b11110#5 && !a.getLsbD 0

/-- The SR1 flag a wait point waits for; none for the waits on CR1 (R153). -/
def WaitPt.sr1Bit : WaitPt → Option Nat
  | .pendStart | .pendStop | .pendDone => none
  | .sb | .sbR => some i2cSB
  | .addr | .addrR => some i2cADDR
  | .add10 => some i2cADD10
  | .rxne _ => some i2cRXNE
  | .txe _ => some i2cTXE
  | .btf => some i2cBTF

end Sys2Proof.Machine
end

