-- ==== Sys2Proof/Machine/Ops.lean ====
section
/-! DEFINITION. The named operations every meaning and agent step is written with: the running context, caller memory
(spec/20_memory.md R63 to R71), in-flight ownership (spec/60_exceptions.md R222), the fatal halt (R210) and the return from
a command (spec/10_state.md R26), the register accesses with their side effects (spec/20_memory.md R72, R73) and the
collaborator calls (spec/48_peripheral_agents.md R205 to R207). -/

namespace Sys2Proof.Machine

/-! ## Outcomes -/

/-- Continue from a next state. -/
def andThen (r : Result) (f : State → Result) : Result :=
  match r with
  | .next s => f s
  | .fault e => .fault e
  | .refused e => .refused e

/-! ## The environment's choice for this step -/

/-- The environment's choice for the coming step: the head of the listed choices, else the free choice (log entry 1). -/
def State.turn (s : State) : Turn :=
  match s.env with
  | t :: _ => t
  | [] => Config.choice s.seq

/-- The step is over: its choice is used up. -/
def State.advance (s : State) : State := { s with env := s.env.tail, seq := s.seq + 1 }

/-! ## The running context -/

/-- Context c; a context that does not exist reads as one at power-on. -/
def State.ctxAt (s : State) (c : Nat) : Ctx := s.ctxs.getD c Ctx.reset

/-- The state with context c replaced; nothing happens for a context that does not exist. -/
def State.setCtx (s : State) (c : Nat) (x : Ctx) : State := { s with ctxs := s.ctxs.set c x }

/-- The number of the context whose step this is. -/
def State.cur (s : State) : Nat := s.turn.ctx

/-- The context whose step this is. -/
def State.me (s : State) : Ctx := s.ctxAt s.cur

/-- The state with the context whose step this is replaced. -/
def State.setMe (s : State) (x : Ctx) : State := s.setCtx s.cur x

/-- Move the running command to another micro-step (R26). -/
def State.goto (s : State) (p : Pos) : State := s.setMe { s.me with pos := p }

/-- `RES <- v` (R24). -/
def State.setRes (s : State) (v : Word) : State := s.setMe { s.me with res := v, resWritten := true }

/-- The command returns (R26): one more command completed, and the context is ready for its next. -/
def State.returned (s : State) : State := s.setMe { s.me with pos := .ready, cc := s.me.cc + 1 }

/-- A context takes a snapshot of a presented command (R23): the port and the snapshot hold it, and no micro-step has been
taken. -/
def Ctx.present (x : Ctx) (p : Port) : Ctx := { x with port := p, issued := p, pos := .start }

/-- `raise ConfigError(kind)`, the fatal halt (R210): the fault record is written, the position stays at the raising
micro-step, RES and everything else stays as it is. The context takes no further micro-step (see `ctxStep`). There is no
return from it (R219). -/
def raise (kind : ErrorKind) (s : State) : Result :=
  let cmd := s.me.issued.cmd
  .next (s.setMe { s.me with fault := some { kind := kind, cmd := cmd, bus := cmd.extractLsb' 8 4 } })

/-! ## Bus instances -/

/-- SPI instance b. -/
def State.spiAt (s : State) (b : BusId) : SpiBus := s.spi.get b

/-- The state with SPI instance b replaced. -/
def State.setSpi (s : State) (b : BusId) (x : SpiBus) : State := { s with spi := s.spi.put b x }

/-- I2C instance b. -/
def State.i2cAt (s : State) (b : BusId) : I2cBus := s.i2c.get b

/-- The state with I2C instance b replaced. -/
def State.setI2c (s : State) (b : BusId) (x : I2cBus) : State := { s with i2c := s.i2c.put b x }

/-- Append records to the bus-event sequence (R185). -/
def State.emitAll (s : State) (es : List BusEvent) : State := { s with events := s.events ++ es }

/-- Append one record to the bus-event sequence (R185). -/
def State.emit (s : State) (e : BusEvent) : State := s.emitAll [e]

/-- The state with caller memory replaced. -/
def State.setMem (s : State) (m : Memory) : State := { s with mem := m }

/-- The in-flight check of an SPI command's first micro-step, and the claim of the instance (R222). -/
def acquireSpi (b : BusId) (s : State) (k : State → Result) : Result :=
  match (s.spiAt b).inflight with
  | some _ => raise .concurrentUse s
  | none => k (s.setSpi b { s.spiAt b with inflight := some s.cur })

/-- The in-flight check of an I2C command's first micro-step, and the claim of the instance (R222). -/
def acquireI2c (b : BusId) (s : State) (k : State → Result) : Result :=
  match (s.i2cAt b).inflight with
  | some _ => raise .concurrentUse s
  | none => k (s.setI2c b { s.i2cAt b with inflight := some s.cur })

/-- The return micro-step of an SPI command: release the instance and return (R26, R27). -/
def finishSpi (b : BusId) (s : State) : Result :=
  .next (s.setSpi b { s.spiAt b with inflight := none }).returned

/-- The return micro-step of an I2C command other than I2C.MASTER_XFER: release the instance and return (R26, R27). -/
def finishI2c (b : BusId) (s : State) : Result :=
  .next (s.setI2c b { s.i2cAt b with inflight := none }).returned

/-! ## Caller memory -/

/-- The byte at an address (R63). -/
def Memory.read : Memory → Nat → Byte
  | [], _ => Config.unwrittenByte
  | (b, v) :: m, a => if b = a then v else Memory.read m a

/-- Put a byte at an address, in the canonical form: addresses strictly rising, no listed byte equal to what an unlisted
address reads as. -/
def Memory.write : Memory → Nat → Byte → Memory
  | [], a, v => if v = Config.unwrittenByte then [] else [(a, v)]
  | (b, w) :: m, a, v =>
    if b < a then (b, w) :: Memory.write m a v
    else if b = a then (if v = Config.unwrittenByte then m else (a, v) :: m)
    else if v = Config.unwrittenByte then (b, w) :: m
    else (a, v) :: (b, w) :: m

/-- Every listed address is above `a`. -/
def Memory.above (a : Nat) (m : Memory) : Bool := m.all fun c => decide (a < c.1)

/-- The canonical form: addresses strictly rising, and no listed byte equal to what an unlisted address reads as. -/
def Memory.wf : Memory → Bool
  | [] => true
  | (a, v) :: m => Memory.above a m && v != Config.unwrittenByte && Memory.wf m

/-- `MemRead(addr, 2)`, little-endian (R15, R63). -/
def Memory.read16 (m : Memory) (a : Nat) : Half := m.read (a + 1) ++ m.read a

/-- `MemRead(addr, 4)`, little-endian (R15, R63). -/
def Memory.read32 (m : Memory) (a : Nat) : Word :=
  m.read (a + 3) ++ m.read (a + 2) ++ m.read (a + 1) ++ m.read a

/-- `MemWrite(addr, 2, v)`, little-endian (R15, R63, R64). -/
def Memory.write16 (m : Memory) (a : Nat) (v : Half) : Memory :=
  (m.write a (v.extractLsb' 0 8)).write (a + 1) (v.extractLsb' 8 8)

/-- ADMIT(addr, n) of the platform (R67). -/
def platformAllows (p : Platform) (a n : Nat) : Bool :=
  p.admitted.any fun r => r.width == n && decide (r.base ≤ a) && decide (a + n ≤ r.base + r.size)

/-- The access (addr, n) is admitted (R67): no wrap past the top of the address space, no register block, and ADMIT says
yes. -/
def allows (p : Platform) (a n : Nat) : Bool :=
  decide (a + n ≤ 2 ^ 32) && !inRegisterBlock p a n && platformAllows p a n

/-- One caller-memory access as a micro-step: where it is refused there is no step, and the context stays where it is for
good (R67, R215; log entry 10). -/
def memAccess (a n : Nat) (s : State) (k : Result) : Result := if allows s.plat a n then k else .next s

/-- `MemRead(addr, 1)` (R15). -/
def memRead8 (a : Nat) (s : State) (k : Byte → Result) : Result := memAccess a 1 s (k (s.mem.read a))

/-- `MemRead(addr, 2)` (R15). -/
def memRead16 (a : Nat) (s : State) (k : Half → Result) : Result := memAccess a 2 s (k (s.mem.read16 a))

/-- `MemRead(addr, 4)` (R15). -/
def memRead32 (a : Nat) (s : State) (k : Word → Result) : Result := memAccess a 4 s (k (s.mem.read32 a))

/-- `MemWrite(addr, 1, v)` (R15). -/
def memWrite8 (a : Nat) (v : Byte) (s : State) (k : State → Result) : Result :=
  memAccess a 1 s (k (s.setMem (s.mem.write a v)))

/-- `MemWrite(addr, 2, v)` (R15). -/
def memWrite16 (a : Nat) (v : Half) (s : State) (k : State → Result) : Result :=
  memAccess a 2 s (k (s.setMem (s.mem.write16 a v)))

/-! ## SPI register accesses (R72) -/

/-- `RegRead(SPI(b).SR)`: the value, then OVR cleared if a DR read came before, then disarmed (R60, R72). -/
def SpiBus.readSr (x : SpiBus) : Word × SpiBus :=
  (x.sr, { x with sr := if x.armedDR && x.ovr then clearBit x.sr spiOVR else x.sr, armedDR := false })

/-- `RegRead(SPI(b).DR)`: the receive buffer, then RXNE cleared and armed (R41, R60, R72). -/
def SpiBus.readDr (x : SpiBus) : Word × SpiBus :=
  (x.rxbuf.setWidth 32, { x with sr := clearBit x.sr spiRXNE, armedDR := true })

/-- `RegRead(SPI(b).R)` of any register: SR and DR have side effects, every other register none (R14, R72). -/
def SpiBus.regRead (x : SpiBus) : SpiReg → Word × SpiBus
  | .cr1 => (x.cr1, x)
  | .cr2 => (x.cr2, x)
  | .sr => x.readSr
  | .dr => x.readDr
  | .crcpr => (x.crcpr, x)
  | .rxcrcr => (x.rxcrcr, x)
  | .txcrcr => (x.txcrcr, x)
  | .i2scfgr => (x.i2scfgr, x)
  | .i2spr => (x.i2spr, x)

/-- `RegWrite(SPI(b).DR, v)`: the transmit buffer holds v[7:0], TXE cleared (R41, R72). -/
def SpiBus.writeDr (x : SpiBus) (v : Word) : SpiBus :=
  { x with txbuf := v.setWidth 8, sr := clearBit x.sr spiTXE }

/-- `RegWrite(SPI(b).SR, v)`: CRCERR is cleared by a 0 (R72). -/
def SpiBus.writeSr (x : SpiBus) (v : Word) : SpiBus :=
  { x with sr := putBit x.sr spiCRCERR (testBit x.sr spiCRCERR && testBit v spiCRCERR) }

/-- A write of SPI CR1 that takes SPE from 1 to 0 while a frame is in flight or a byte waits to be sent (R224). -/
def SpiBus.disablesBusy (x : SpiBus) (v : Word) : Bool :=
  x.spe && !testBit v spiSPE && (x.shActive || !x.txe)

/-- `RegWrite(SPI(b).CR1, v)`: bits 31:16 forced to 0 (R72). -/
def SpiBus.writeCr1 (x : SpiBus) (v : Word) : SpiBus := { x with cr1 := v &&& spiCr1Mask }

/-- A write or read-modify-write of SPI(b).CR1 as a micro-step: DisableWhileBusy before the write takes effect (R72,
R224). -/
def spiWriteCr1 (b : BusId) (v : Word) (s : State) (k : State → Result) : Result :=
  if (s.spiAt b).disablesBusy v then raise .disableWhileBusy s else k (s.setSpi b ((s.spiAt b).writeCr1 v))

/-! ## I2C register accesses (R73) -/

/-- `RegRead(I2C(b).SR1)`: the value, then armed (R60, R73). -/
def I2cBus.readSr1 (x : I2cBus) : Word × I2cBus := (x.sr1, { x with armed1 := true })

/-- ADDR cleared by an SR2 read: the phase moves to Tx or Rx in the same micro-step (R73, R196). -/
def I2cBus.clearAddr (x : I2cBus) : I2cBus :=
  let y := { x with sr1 := clearBit x.sr1 i2cADDR }
  if x.phase = .addressed then
    match x.dir with
    | .write => { y with phase := .tx, sr1 := setBit y.sr1 i2cTXE }
    | .read => { y with phase := .rx, sr2 := clearBit y.sr2 i2cTRA }
  else y

/-- `RegRead(I2C(b).SR2)`: the value, then ADDR cleared if armed, then disarmed (R60, R73). -/
def I2cBus.readSr2 (x : I2cBus) : Word × I2cBus :=
  (x.sr2, { (if x.armed1 && testBit x.sr1 i2cADDR then x.clearAddr else x) with armed1 := false })

/-- `RegWrite(I2C(b).DR, v)`: DR holds v[7:0], for the transmit path (R48); SB, ADD10 and BTF cleared if armed; TXE cleared, a byte pending, disarmed
(R60, R73). -/
def I2cBus.writeDr (x : I2cBus) (v : Word) : I2cBus :=
  let cleared := if x.armed1 then clearBit (clearBit (clearBit x.sr1 i2cSB) i2cADD10) i2cBTF else x.sr1
  { x with dr := (v.setWidth 8).setWidth 32, sr1 := clearBit cleared i2cTXE, txPending := true, armed1 := false }

/-- What a read of I2C DR gives: DR[7:0] (R73). DR is one register, written by R73's write and by R198's received byte and
read by R194, R195 and R197, so this is the last received byte of R48 unless a byte has been written since (DEDUCED, log
entry 23; `I2cBus.readDr_of_holdsReceived`). -/
def I2cBus.drValue (x : I2cBus) : Byte := x.dr.setWidth 8

/-- `RegRead(I2C(b).DR)`: the byte in DR, then RXNE cleared, BTF cleared if armed, disarmed (R48, R60, R73). -/
def I2cBus.readDr (x : I2cBus) : Word × I2cBus :=
  let cleared := clearBit x.sr1 i2cRXNE
  (x.drValue.setWidth 32,
   { x with sr1 := if x.armed1 then clearBit cleared i2cBTF else cleared, armed1 := false })

/-- `RegRead(I2C(b).R)` of any register: SR1, SR2 and DR have side effects, every other register none (R14, R73). -/
def I2cBus.regRead (x : I2cBus) : I2cReg → Word × I2cBus
  | .cr1 => (x.cr1, x)
  | .cr2 => (x.cr2, x)
  | .oar1 => (x.oar1, x)
  | .oar2 => (x.oar2, x)
  | .dr => x.readDr
  | .sr1 => x.readSr1
  | .sr2 => x.readSr2
  | .ccr => (x.ccr, x)
  | .trise => (x.trise, x)

/-- `RegWrite(I2C(b).SR1, v)`: the write-0-to-clear bits (R73). -/
def I2cBus.writeSr1 (x : I2cBus) (v : Word) : I2cBus := { x with sr1 := x.sr1 &&& (v ||| ~~~sr1ClearMask) }

/-- The peripheral disable: what happens where PE goes from 1 to 0 (R201). -/
def I2cBus.disable (x : I2cBus) : I2cBus :=
  { x with
    cr1 := clearBit (clearBit (clearBit x.cr1 i2cACK) i2cSTART) i2cSTOP
    sr1 := x.sr1 &&& sr1ErrorBits
    sr2 := 0
    phase := .idle
    txPending := false
    nacked := false }

/-- A write or read-modify-write of I2C(b).CR1: reserved bits 0; the disable effects where PE goes from 1 to 0 (R73,
R201). -/
def I2cBus.writeCr1 (x : I2cBus) (v : Word) : I2cBus :=
  let y := { x with cr1 := v &&& i2cCr1Mask }
  if x.pe && !testBit v i2cPE then y.disable else y

/-- `RegWrite(I2C(b).CR2, v)`: reserved bits 0 (R46, R73). -/
def I2cBus.writeCr2 (x : I2cBus) (v : Word) : I2cBus := { x with cr2 := v &&& i2cCr2Mask }

/-- `RegWrite(I2C(b).CCR, v)`: reserved bits 0 (R51, R73). -/
def I2cBus.writeCcr (x : I2cBus) (v : Word) : I2cBus := { x with ccr := v &&& i2cCcrMask }

/-- `RegWrite(I2C(b).TRISE, v)`: reserved bits 0 (R52, R73). -/
def I2cBus.writeTrise (x : I2cBus) (v : Word) : I2cBus := { x with trise := v &&& i2cTriseMask }

/-- A write of a timing register as a micro-step: refused while the peripheral is enabled, since the spec gives such a
write no meaning (R51, R52, R225; log entry 11). -/
def i2cWriteTiming (b : BusId) (f : I2cBus → I2cBus) (s : State) (k : State → Result) : Result :=
  if (s.i2cAt b).pe then .refused .timingWhileEnabled else k (s.setI2c b (f (s.i2cAt b)))

/-! ## Collaborator calls -/

/-- `PinConfig(SPI, b, role, false)` (R205). -/
def pinConfigSpi (b : BusId) (cfg : PinState) (s : State) : State :=
  (s.setSpi b { s.spiAt b with pins := cfg }).emit (.pin (.spi b) cfg)

/-- `PinConfig(I2C, b, Master, remap)` and `PinModeGpioOD(b)` (R205). -/
def pinConfigI2c (b : BusId) (cfg : PinState) (s : State) : State :=
  (s.setI2c b { s.i2cAt b with pins := cfg }).emit (.pin (.i2c b) cfg)

/-- The output latch of a line (R55). -/
def I2cBus.latch (x : I2cBus) : Line → Bool
  | .scl => x.gpioScl
  | .sda => x.gpioSda

/-- `GpioWrite(b, line, v)` (R206). -/
def gpioWrite (b : BusId) (line : Line) (v : Bool) (s : State) : State :=
  let x := s.i2cAt b
  (s.setI2c b (match line with
    | .scl => { x with gpioScl := v }
    | .sda => { x with gpioSda := v })).emit (.gpio b line v)

/-- `GpioRead(b, line)`: 0 while the latch is 0, else a draw (R206). It appends no record (R185, R206; R10 says that each
collaborator call records an event: DEDUCED, log entry 24). -/
def gpioRead (b : BusId) (line : Line) (s : State) : Bool := (s.i2cAt b).latch line && s.turn.bit

/-- `Delay(n)` (R207). -/
def delayFor (n : Nat) (s : State) : State := s.emit (.delay n)

/-- `PeripheralReset(I2C, b)` (R141, R207): the registers and the hidden state of R53 at their reset values; pins, latches,
in-flight owner and device state stay, and no record is appended (R185, R234; R10 says that each collaborator call records an
event: DEDUCED, log entry 24). -/
def I2cBus.peripheralReset (x : I2cBus) : I2cBus :=
  { x with
    cr1 := 0, cr2 := 0, oar1 := 0, oar2 := 0, dr := 0, received := 0, sr1 := 0, sr2 := 0, ccr := 0, trise := 0x0002
    phase := .idle, dir := .write, txPending := false, nacked := false, armed1 := false }

end Sys2Proof.Machine
end

