-- ==== Sys2Proof/Machine/Agents.lean ====
section
/-! DEFINITION. The agents that step on their own: the SPI peripheral with its bus and peer, the I2C peripheral with its
bus and peers, the time source and the caller's port writes (spec/48_peripheral_agents.md R179 to R204). A step that is
not enabled does nothing: the environment's choice is then an idle step (log entry 1). -/

namespace Sys2Proof.Machine

/-! ## SPI peripheral -/

/-- A frame start is enabled (R181, R184, R187): SPE = 1, no frame in the shifter, and in master mode a byte waiting. -/
def SpiBus.startEnabled (x : SpiBus) : Bool := x.spe && !x.shActive && (!x.mstr || !x.txe)

/-- A frame start (R184, R187): the waiting byte, or in slave mode with nothing written a drawn byte, goes into the
shifter. -/
def SpiBus.startFrame (x : SpiBus) (draw : Byte) : SpiBus :=
  { x with shTx := if x.txe then draw else x.txbuf, sr := setBit (setBit x.sr spiTXE) spiBSY }

/-- A frame completion is enabled (R186). -/
def SpiBus.completeEnabled (x : SpiBus) : Bool := x.spe && x.shActive

/-- The received byte of a completing frame (R186 point 2): kept if the receive buffer is empty, else lost with OVR. -/
def SpiBus.receive (x : SpiBus) (rx : Byte) : SpiBus :=
  if x.rxne then { x with sr := setBit x.sr spiOVR } else { x with rxbuf := rx, sr := setBit x.sr spiRXNE }

/-- The shifter after a frame (R186 point 3): in master mode a waiting byte follows at once; otherwise it goes idle. -/
def SpiBus.afterFrame (x : SpiBus) : SpiBus :=
  if x.mstr && !x.txe then { x with shTx := x.txbuf, sr := setBit x.sr spiTXE }
  else { x with sr := clearBit x.sr spiBSY }

/-- The record of a completing frame (R185, R186 point 1). -/
def SpiBus.frame (x : SpiBus) (b : BusId) (rx : Byte) : BusEvent :=
  .spiFrame b x.role x.shTx rx x.lsbfirst x.mode

/-- The start step of `SpiPer(b)` (R184, R187). -/
def spiStartStep (b : BusId) (draw : Byte) (s : State) : State :=
  if spiValid s.plat b && (s.spiAt b).startEnabled then s.setSpi b ((s.spiAt b).startFrame draw) else s

/-- The completion step of `SpiPer(b)` (R186); `rx` is the draw of R182. -/
def spiCompleteStep (b : BusId) (rx : Byte) (s : State) : State :=
  if spiValid s.plat b && (s.spiAt b).completeEnabled then
    (s.setSpi b ((s.spiAt b).receive rx).afterFrame).emit ((s.spiAt b).frame b rx)
  else s

/-! ## I2C peripheral -/

/-- The condition of each step of `I2cPer(b)` beyond R202's (R193 to R200). A START is accepted in the phases that R193 lists;
phase `Started`, in which a stale START leaves the peripheral (R250), is none of them (log entry 22). -/
def I2cBus.stepReady (x : I2cBus) : I2cStep → Bool
  | .accept => x.startReq &&
      match x.phase with
      | .idle | .rx | .failed | .lost => true
      | .tx => !x.txPending
      | .startReq | .started | .hdrSent | .addressed => false
  | .generate => x.phase == .startReq
  | .address => x.phase == .started && x.txPending
  | .address2 => x.phase == .hdrSent && x.txPending
  | .transmit => x.phase == .tx && x.txPending
  | .receive => x.phase == .rx && !testBit x.sr1 i2cRXNE && !x.nacked
  | .busError => x.phase != .idle
  | .arbitrationLoss => x.phase != .idle && x.msl
  | .overrun => x.phase == .rx && testBit x.sr1 i2cRXNE
  | .stop => x.stopReq && !(x.phase == .tx && x.txPending)

/-- A step of `I2cPer(b)` is enabled: PE = 1, the pins connected (R202), and its own condition. -/
def I2cBus.stepEnabled (x : I2cBus) (k : I2cStep) : Bool := x.pe && x.connected && x.stepReady k

/-- Generate (R193). -/
def I2cBus.generateStart (x : I2cBus) : I2cBus :=
  { x with
    sr1 := clearBit (clearBit (setBit x.sr1 i2cSB) i2cBTF) i2cTXE
    sr2 := setBit (setBit x.sr2 i2cMSL) i2cBUSY
    cr1 := clearBit x.cr1 i2cSTART
    txPending := false
    nacked := false
    phase := .started }

/-- A byte was not acknowledged (R194, R195, R197). -/
def I2cBus.nack (x : I2cBus) : I2cBus := { x with sr1 := setBit x.sr1 i2cAF, phase := .failed }

/-- The address byte (R194): a 10-bit write header, or an address with its direction. -/
def I2cBus.sendAddress (x : I2cBus) (ack : Bool) : I2cBus :=
  let a : Byte := x.dr.setWidth 8
  let y := { x with txPending := false }
  if isWriteHeader a then
    if ack then { y with sr1 := setBit y.sr1 i2cADD10, dir := .write, phase := .hdrSent } else y.nack
  else
    let z := { y with dir := if a.getLsbD 0 then .read else .write }
    if ack then
      { z with sr1 := setBit z.sr1 i2cADDR, sr2 := putBit z.sr2 i2cTRA (!a.getLsbD 0), phase := .addressed }
    else z.nack

/-- The second 10-bit address byte (R195). -/
def I2cBus.sendAddress2 (x : I2cBus) (ack : Bool) : I2cBus :=
  let y := { x with txPending := false }
  if ack then { y with sr1 := setBit y.sr1 i2cADDR, sr2 := setBit y.sr2 i2cTRA, phase := .addressed } else y.nack

/-- A data byte to the peer (R197). -/
def I2cBus.sendData (x : I2cBus) (ack : Bool) : I2cBus :=
  let y := { x with txPending := false }
  if ack then { y with sr1 := setBit (setBit y.sr1 i2cTXE) i2cBTF } else y.nack

/-- A data byte from the peer (R198): DR takes it, and it is the last received byte (R48). -/
def I2cBus.receiveData (x : I2cBus) (v : Byte) : I2cBus :=
  { x with dr := v.setWidth 32, received := v, sr1 := setBit x.sr1 i2cRXNE, nacked := if x.ack then x.nacked else true }

/-- Stop (R200). RXNE stays, so that a byte which an aborted read has left is seen by the next read message (DEDUCED against
R177, log entry 25). -/
def I2cBus.generateStop (x : I2cBus) : I2cBus :=
  { x with
    cr1 := clearBit x.cr1 i2cSTOP
    sr2 := clearBit (clearBit (clearBit x.sr2 i2cMSL) i2cBUSY) i2cTRA
    sr1 := clearBit (clearBit (clearBit (clearBit x.sr1 i2cSB) i2cADDR) i2cADD10) i2cBTF
    txPending := false
    nacked := false
    phase := .idle }

/-- The effect of an enabled step on the instance (R193 to R200); `byte` and `bit` are the step's draws. -/
def I2cBus.stepEffect (x : I2cBus) (k : I2cStep) (byte : Byte) (bit : Bool) : I2cBus :=
  match k with
  | .accept => { x with phase := .startReq }
  | .generate => x.generateStart
  | .address => x.sendAddress bit
  | .address2 => x.sendAddress2 bit
  | .transmit => x.sendData bit
  | .receive => x.receiveData byte
  | .busError => { x with sr1 := setBit x.sr1 i2cBERR }
  | .arbitrationLoss => { x with sr1 := setBit x.sr1 i2cARLO, sr2 := clearBit x.sr2 i2cMSL, phase := .lost }
  | .overrun => { x with sr1 := setBit x.sr1 i2cOVR }
  | .stop => x.generateStop

/-- The records of an enabled step (R185, R193 to R198, R200). -/
def I2cBus.stepEvents (x : I2cBus) (b : BusId) (k : I2cStep) (byte : Byte) (bit : Bool) : List BusEvent :=
  match k with
  | .generate => [.i2cStart b (x.busy && x.msl)]
  | .address | .address2 | .transmit => [.i2cByte b .write (x.dr.setWidth 8) bit]
  | .receive => [.i2cByte b .read byte x.ack]
  | .stop => if x.msl then [.i2cStop b] else []
  | .accept | .busError | .arbitrationLoss | .overrun => []

/-- A step of `I2cPer(b)` (R193 to R202). -/
def i2cPerStep (b : BusId) (k : I2cStep) (byte : Byte) (bit : Bool) (s : State) : State :=
  let x := s.i2cAt b
  if i2cValid s.plat b && x.stepEnabled k then
    (s.setI2c b (x.stepEffect k byte bit)).emitAll (x.stepEvents b k byte bit)
  else s

/-! ## Time and the caller's port -/

/-- The step of `Time` (R203). -/
def timeStep (s : State) : State := { s with now := s.now + 1 }

/-- The caller of context c writes its port registers without issuing (R23). A halted context's caller does nothing
(R210). -/
def portStep (c : Nat) (p : Port) (s : State) : State :=
  if (s.ctxAt c).fault.isSome then s else s.setCtx c { s.ctxAt c with port := p }

end Sys2Proof.Machine
end

