-- ==== Sys2Proof/Machine/Calc.lean ====
section
/-! DEFINITION. The calculator commands SPI.BAUD_CALC and I2C.TIMING_CALC (spec/40_clock_calculators.md R104, R108). They
access no instance, so they take no in-flight check (R222). -/

namespace Sys2Proof.Machine

/-- A calculator's first micro-step: RES takes the value, or the configuration error is raised (R104, R108). -/
def calcResult (r : Except ErrorKind Word) (s : State) : Result :=
  match r with
  | .error e => raise e s
  | .ok v => .next ((s.setRes v).goto .ret)

/-- SPI.BAUD_CALC (R104): `RES <- zext_32(SpiBaud(BUS, TIER))`, then return. -/
def execSpiBaudCalc (bus : BitVec 4) (tier : BitVec 8) (s : State) : Result :=
  match spiBusOf s.plat bus with
  | none => raise .invalidBus s
  | some b =>
    match s.me.pos with
    | .start => calcResult ((spiBaud (Config.spiDomain b) tier).map (fun br => br.setWidth 32)) s
    | .ret => .next s.returned
    | _ => .fault .lostPosition

/-- I2C.TIMING_CALC (R108): RES packs FREQ, TRISE and the CCR register, then return. -/
def execI2cTimingCalc (bus : BitVec 4) (flags : BitVec 4) (s : State) : Result :=
  match i2cBusOf s.plat bus with
  | none => raise .invalidBus s
  | some b =>
    match s.me.pos with
    | .start => calcResult ((i2cTiming b flags).map Timing.packed) s
    | .ret => .next s.returned
    | _ => .fault .lostPosition

end Sys2Proof.Machine
end

