-- ==== Sys2Proof/Machine/I2c.lean ====
section
/-! DEFINITION. The I2C device commands (spec/42_i2c_device.md R138 to R150), one micro-step per call. -/

namespace Sys2Proof.Machine

/-! ## I2C.INIT -/

/-- I2C.INIT after the device-state write (R139): error flags cleared, the peripheral reset, for which no record is appended
(R234; log entry 24). -/
def i2cInitStep (b : BusId) (p : InitPos) (s : State) : Result :=
  let x := s.i2cAt b
  match p with
  | .flags => .next ((s.setI2c b { x with dev := { x.dev with errorFlags := 0 } }).goto (.init .reset))
  | .reset => .next ((s.setI2c b x.peripheralReset).goto .ret)

/-- I2C.INIT (R139). -/
def execI2cInit (bus : BitVec 4) (s : State) : Result :=
  match i2cBusOf s.plat bus with
  | none => raise .invalidBus s
  | some b =>
    match s.me.pos with
    | .start => acquireI2c b s fun s =>
        let x := s.i2cAt b
        .next ((s.setI2c b { x with dev := { x.dev with state := .disabled } }).goto (.init .flags))
    | .init p => i2cInitStep b p s
    | .ret => finishI2c b s
    | _ => .fault .lostPosition

/-! ## I2C.BUS_RESET -/

/-- One micro-step of `BusReset(b)` (R148); `done` is where the sequence ends. -/
def busResetStep (b : BusId) (p : BusResetPos) (done : Pos) (s : State) : Result :=
  match p with
  | .releaseScl => .next ((gpioWrite b .scl true s).goto (.busReset .releaseSda))
  | .releaseSda => .next ((gpioWrite b .sda true s).goto (.busReset .gpioMode))
  | .gpioMode => .next ((pinConfigI2c b .gpioOD s).goto (.busReset .readSda))
  | .readSda => .next (s.goto (.busReset (if gpioRead b .sda s then .startSda else .readScl)))
  | .readScl => .next (s.goto (.busReset (if gpioRead b .scl s then .delay1 else .readScl)))
  | .delay1 => .next ((delayFor 10 s).goto (.busReset .clockLow))
  | .clockLow => .next ((gpioWrite b .scl false s).goto (.busReset .delay2))
  | .delay2 => .next ((delayFor 10 s).goto (.busReset .clockHigh))
  | .clockHigh => .next ((gpioWrite b .scl true s).goto (.busReset .delay3))
  | .delay3 => .next ((delayFor 10 s).goto (.busReset .readSda))
  | .startSda => .next ((gpioWrite b .sda false s).goto (.busReset .delay4))
  | .delay4 => .next ((delayFor 10 s).goto (.busReset .startScl))
  | .startScl => .next ((gpioWrite b .scl false s).goto (.busReset .delay5))
  | .delay5 => .next ((delayFor 10 s).goto (.busReset .stopScl))
  | .stopScl => .next ((gpioWrite b .scl true s).goto (.busReset .delay6))
  | .delay6 => .next ((delayFor 10 s).goto (.busReset .stopSda))
  | .stopSda => .next ((gpioWrite b .sda true s).goto done)

/-- I2C.BUS_RESET (R148). -/
def execI2cBusReset (bus : BitVec 4) (s : State) : Result :=
  match i2cBusOf s.plat bus with
  | none => raise .invalidBus s
  | some b =>
    match s.me.pos with
    | .start => acquireI2c b s fun s => busResetStep b .releaseScl .ret s
    | .busReset p => busResetStep b p .ret s
    | .ret => finishI2c b s
    | _ => .fault .lostPosition

/-! ## I2C.MASTER_ENABLE -/

/-- The checks of I2C.MASTER_ENABLE in their order (R143): REMAP, then the timing. -/
def enableTiming (b : BusId) (flags : BitVec 4) : Except ErrorKind Timing :=
  if flags.getLsbD 2 && !Config.i2cRemap b then .error .invalidFlags else i2cTiming b flags

/-- I2C.MASTER_ENABLE after the PE clear (R143): CR2, CCR and TRISE, the optional bus reset, the pins, the device state,
PE set. -/
def i2cEnableStep (b : BusId) (flags : BitVec 4) (t : Timing) (p : EnablePos) (s : State) : Result :=
  let x := s.i2cAt b
  match p with
  | .cr2 => i2cWriteTiming b (fun x => x.writeCr2 t.cr2) s fun s => .next (s.goto (.enabling .ccr))
  | .ccr => i2cWriteTiming b (fun x => x.writeCcr t.ccrReg) s fun s => .next (s.goto (.enabling .trise))
  | .trise => i2cWriteTiming b (fun x => x.writeTrise t.triseReg) s fun s =>
      .next (s.goto (if flags.getLsbD 3 then .busReset .releaseScl else .enabling .pins))
  | .pins => .next ((pinConfigI2c b (.i2cAF (flags.getLsbD 2)) s).goto (.enabling .state))
  | .state => .next ((s.setI2c b { x with dev := { x.dev with state := .idle } }).goto (.enabling .enable))
  | .enable => .next ((s.setI2c b (x.writeCr1 (setBit x.cr1 i2cPE))).goto .ret)

/-- I2C.MASTER_ENABLE (R143). -/
def execI2cMasterEnable (bus : BitVec 4) (flags : BitVec 4) (s : State) : Result :=
  match i2cBusOf s.plat bus with
  | none => raise .invalidBus s
  | some b =>
    match s.me.pos with
    | .start => acquireI2c b s fun s =>
        match enableTiming b flags with
        | .error e => raise e s
        | .ok _ =>
          let x := s.i2cAt b
          .next ((s.setI2c b (x.writeCr1 (clearBit x.cr1 i2cPE))).goto (.enabling .cr2))
    | .enabling p =>
        match enableTiming b flags with
        | .error e => raise e s
        | .ok t => i2cEnableStep b flags t p s
    | .busReset p => busResetStep b p (.enabling .pins) s
    | .ret => finishI2c b s
    | _ => .fault .lostPosition

end Sys2Proof.Machine
end

