-- ==== Sys2Proof/Machine/Spi.lean ====
section
/-! DEFINITION. The SPI transfer engine's commands (spec/41_spi_engine.md R111 to R137), one micro-step per call: a meaning
looks at the position of the running context, performs that micro-step of the command's pseudocode, and moves the
position. -/

namespace Sys2Proof.Machine

/-- One read of SPI(b).SR as a micro-step: the continuation has the value and the state after its side effects (R72). -/
def spiPoll (b : BusId) (s : State) (k : Word → State → Result) : Result :=
  k (s.spiAt b).readSr.1 (s.setSpi b (s.spiAt b).readSr.2)

/-- One read of SPI(b).DR as a micro-step: the received byte and the state after its side effects (R72). -/
def spiTake (b : BusId) (s : State) (k : Byte → State → Result) : Result :=
  k ((s.spiAt b).readDr.1.setWidth 8) (s.setSpi b (s.spiAt b).readDr.2)

/-! ## SPI.BEGIN and SPI.BEGIN_SLAVE -/

/-- The first micro-step of SpiReconfigure (R115): SPE cleared, unless the disable is refused (R224). -/
def spiReconfigure (b : BusId) (s : State) : Result :=
  spiWriteCr1 b (clearBit (s.spiAt b).cr1 spiSPE) s fun s => .next (s.goto (.cfg .writeCr1))

/-- The later micro-steps of SpiReconfigure (R115): the whole configuration with SPE = 0, the pins, SPE set. -/
def spiReconfigureStep (b : BusId) (cr1 : Word) (cfg : PinState) (p : CfgPos) (s : State) : Result :=
  match p with
  | .writeCr1 => spiWriteCr1 b cr1 s fun s => .next (s.goto (.cfg .pins))
  | .pins => .next ((pinConfigSpi b cfg s).goto (.cfg .enable))
  | .enable => spiWriteCr1 b (setBit (s.spiAt b).cr1 spiSPE) s fun s => .next (s.goto .ret)

/-- The operand checks of SPI.BEGIN in their order (R116, R117): MODE, then TIER. -/
def beginBaud (b : BusId) (tier : BitVec 8) (mode : BitVec 4) : Except ErrorKind (BitVec 3) :=
  if 4 ≤ mode.toNat then .error .invalidMode else spiBaud (Config.spiDomain b) tier

/-- SPI.BEGIN (R118). -/
def execSpiBegin (bus : BitVec 4) (tier : BitVec 8) (ord : BitVec 1) (mode : BitVec 4) (s : State) : Result :=
  match spiBusOf s.plat bus with
  | none => raise .invalidBus s
  | some b =>
    match s.me.pos with
    | .start => acquireSpi b s fun s =>
        match beginBaud b tier mode with
        | .error e => raise e s
        | .ok _ => spiReconfigure b s
    | .cfg p =>
        match beginBaud b tier mode with
        | .error e => raise e s
        | .ok br => spiReconfigureStep b (masterCr1 ord (modeBits mode) br) .spiMaster p s
    | .ret => finishSpi b s
    | _ => .fault .lostPosition

/-- SPI.BEGIN_SLAVE (R121). -/
def execSpiBeginSlave (bus : BitVec 4) (ord : BitVec 1) (mode : BitVec 4) (s : State) : Result :=
  match spiBusOf s.plat bus with
  | none => raise .invalidBus s
  | some b =>
    match s.me.pos with
    | .start => acquireSpi b s fun s => if 4 ≤ mode.toNat then raise .invalidMode s else spiReconfigure b s
    | .cfg p => spiReconfigureStep b (slaveCr1 ord (modeBits mode)) .spiSlave p s
    | .ret => finishSpi b s
    | _ => .fault .lostPosition

/-! ## SPI.END -/

/-- SPI.END after its CR1 read (R124): drain-receive, wait for TXE, wait for not BSY, disable, in that order. -/
def spiEndStep (b : BusId) (p : EndPos) (s : State) : Result :=
  match p with
  | .drain => spiPoll b s fun v s => .next (s.goto (.ending (if testBit v spiRXNE then .discard else .waitTxe)))
  | .discard => spiTake b s fun _ s => .next (s.goto (.ending .drain))
  | .waitTxe => spiPoll b s fun v s => .next (s.goto (.ending (if testBit v spiTXE then .waitBsy else .waitTxe)))
  | .waitBsy => spiPoll b s fun v s => .next (s.goto (.ending (if testBit v spiBSY then .waitBsy else .disable)))
  | .disable => spiWriteCr1 b (clearBit (s.spiAt b).cr1 spiSPE) s fun s => .next (s.goto .ret)

/-- SPI.END (R124): a no-op after one CR1 read where SPE = 0 (R125). -/
def execSpiEnd (bus : BitVec 4) (s : State) : Result :=
  match spiBusOf s.plat bus with
  | none => raise .invalidBus s
  | some b =>
    match s.me.pos with
    | .start => acquireSpi b s fun s => .next (s.goto (if (s.spiAt b).spe then .ending .drain else .ret))
    | .ending p => spiEndStep b p s
    | .ret => finishSpi b s
    | _ => .fault .lostPosition

/-! ## SPI.READ -/

/-- SPI.READ after byte k has been stored: the next byte's wait, or the return (R127). -/
def spiReadNext (k len : Nat) : Pos := if k < len then .reading (.wait k) else .ret

/-- SPI.READ inside its byte loop (R127): wait for RXNE, read DR, store at `buf + k`. -/
def spiReadStep (b : BusId) (buf len : Word) (p : ReadPos) (s : State) : Result :=
  match p with
  | .wait k => spiPoll b s fun v s => .next (s.goto (.reading (if testBit v spiRXNE then .data k else .wait k)))
  | .data k => spiTake b s fun v s => .next (s.goto (.reading (.store k v)))
  | .store k v => memWrite8 (buf.toNat + k) v s fun s => .next (s.goto (spiReadNext (k + 1) len.toNat))

/-- SPI.READ (R127): ARG0 is the buffer, ARG1 the length; with length 0 the first micro-step is the return. -/
def execSpiRead (bus : BitVec 4) (s : State) : Result :=
  match spiBusOf s.plat bus with
  | none => raise .invalidBus s
  | some b =>
    match s.me.pos with
    | .start => acquireSpi b s fun s =>
        if s.me.issued.arg1 = 0 then finishSpi b s else spiReadStep b s.me.issued.arg0 s.me.issued.arg1 (.wait 0) s
    | .reading p => spiReadStep b s.me.issued.arg0 s.me.issued.arg1 p s
    | .ret => finishSpi b s
    | _ => .fault .lostPosition

/-! ## SPI.WRITE -/

/-- After an SpiTx call has returned `t` (R130): another call while bytes are left, or the return. -/
def spiWriteNext (txed t len : Nat) : Pos := if txed + t < len then .writing (.status (txed + t) 0) else .ret

/-- SPI.WRITE inside its hand-off loop (R129, R130): the status read comes before the count test; the byte handed off is at
`buf + txed + t`. -/
def spiWriteStep (b : BusId) (buf len : Word) (p : WritePos) (s : State) : Result :=
  match p with
  | .status txed t => spiPoll b s fun v s =>
      if !testBit v spiTXE || decide (len.toNat - txed ≤ t) then .next (s.goto (spiWriteNext txed t len.toNat))
      else .next (s.goto (.writing (.fetch txed t)))
  | .fetch txed t => memRead8 (buf.toNat + txed + t) s fun v => .next (s.goto (.writing (.data txed t v)))
  | .data txed t v =>
      .next ((s.setSpi b ((s.spiAt b).writeDr (v.setWidth 32))).goto (.writing (.status txed (t + 1))))

/-- SPI.WRITE (R130): ARG0 is the buffer, ARG1 the length; with length 0 the first micro-step is the return. -/
def execSpiWrite (bus : BitVec 4) (s : State) : Result :=
  match spiBusOf s.plat bus with
  | none => raise .invalidBus s
  | some b =>
    match s.me.pos with
    | .start => acquireSpi b s fun s =>
        if s.me.issued.arg1 = 0 then finishSpi b s
        else spiWriteStep b s.me.issued.arg0 s.me.issued.arg1 (.status 0 0) s
    | .writing p => spiWriteStep b s.me.issued.arg0 s.me.issued.arg1 p s
    | .ret => finishSpi b s
    | _ => .fault .lostPosition

/-! ## SPI.TRANSFER -/

/-- SPI.TRANSFER (R134): hand off the byte when TXE is seen, the closing status read, wait for RXNE, read DR, RES. -/
def spiTransferStep (b : BusId) (byte : BitVec 8) (p : TransferPos) (s : State) : Result :=
  match p with
  | .status => spiPoll b s fun v s => .next (s.goto (.transfer (if testBit v spiTXE then .write else .status)))
  | .write => .next ((s.setSpi b ((s.spiAt b).writeDr (byte.setWidth 32))).goto (.transfer .close))
  | .close => spiPoll b s fun _ s => .next (s.goto (.transfer .wait))
  | .wait => spiPoll b s fun v s => .next (s.goto (.transfer (if testBit v spiRXNE then .data else .wait)))
  | .data => spiTake b s fun r s => .next (s.goto (.transfer (.result r)))
  | .result r => .next ((s.setRes (r.setWidth 32)).goto .ret)

/-- SPI.TRANSFER (R134): the byte comes from the command word. -/
def execSpiTransfer (bus : BitVec 4) (byte : BitVec 8) (s : State) : Result :=
  match spiBusOf s.plat bus with
  | none => raise .invalidBus s
  | some b =>
    match s.me.pos with
    | .start => acquireSpi b s fun s => spiTransferStep b byte .status s
    | .transfer p => spiTransferStep b byte p s
    | .ret => finishSpi b s
    | _ => .fault .lostPosition

end Sys2Proof.Machine
end

