-- ==== Sys2Proof/Machine/Xfer.lean ====
section
/-! DEFINITION. I2C.MASTER_XFER (spec/43_i2c_master_xfer.md R151 to R178), one micro-step per call. -/

namespace Sys2Proof.Machine

/-- The transfer cursor of bus b (R35). -/
def State.cursorAt (s : State) (b : BusId) : Cursor := (s.i2cAt b).dev.cursor

/-- Update the engine's I2C state of bus b: one engine-state micro-step (R12). -/
def State.setDev (s : State) (b : BusId) (d : Dev) : State := s.setI2c b { s.i2cAt b with dev := d }

/-- Update the transfer cursor of bus b. -/
def State.setCursor (s : State) (b : BusId) (c : Cursor) : State :=
  s.setDev b { (s.i2cAt b).dev with cursor := c }

/-- A read-modify-write of I2C(b).CR1 as a micro-step (R14, R73). -/
def State.modifyI2cCr1 (s : State) (b : BusId) (v : Word) : State := s.setI2c b ((s.i2cAt b).writeCr1 v)

/-- A write of I2C(b).DR as a micro-step (R73). -/
def State.writeI2cDr (s : State) (b : BusId) (v : Byte) : State :=
  s.setI2c b ((s.i2cAt b).writeDr (v.setWidth 32))

/-- A read of I2C(b).SR2, for its side effects, as a micro-step (R73). -/
def State.readI2cSr2 (s : State) (b : BusId) : State := s.setI2c b (s.i2cAt b).readSr2.2

/-- The device states the guard lets pass (R154, C1 of 90_conflicts.md). -/
def guardOpen : DevState → Bool
  | .idle => true
  | .transferDone => true
  | .error => true
  | .disabled => false
  | .busy => false

/-- The entry guard (R154), one atomic micro-step: a rejection writes RES = -3 and returns, holding nothing; otherwise
the in-flight check, the claim and `Busy`. The validation of ARG0 and ARG1 decides what comes next (R155). -/
def xferGuard (b : BusId) (s : State) : Result :=
  if guardOpen (s.i2cAt b).dev.state then
    acquireI2c b s fun s =>
      .next ((s.setDev b { (s.i2cAt b).dev with state := .busy }).goto
        (.xferEntry (if xferArgsOk s.me.issued.arg0 s.me.issued.arg1 then .checkAddr 0 else .bad)))
  else .next (s.setRes i2cErrorBusy).returned

/-- After descriptor i has been read for validation (R155): the next descriptor, the entry, or the error. -/
def validateNext (i : Nat) (count : Half) (addr flags len : Half) : Pos :=
  if descOk addr flags len then
    if i + 1 < count.toNat then .xferEntry (.checkAddr (i + 1)) else .xferEntry .msgs
  else .xferEntry .bad

/-- Validation and entry (R155, R156). `dev(b).t0 <- Now()` is a read of the time source and then an update of engine state,
a micro-step each (R12). -/
def xferEntryStep (b : BusId) (p : EntryPos) (s : State) : Result :=
  let a := s.me.issued
  match p with
  | .checkAddr i => memRead16 (descAddr a.arg0 i) s fun addr => .next (s.goto (.xferEntry (.checkFlags i addr)))
  | .checkFlags i addr => memRead16 (descAddr a.arg0 i + 2) s fun flags =>
      .next (s.goto (.xferEntry (.checkLen i addr flags)))
  | .checkLen i addr flags => memRead16 (descAddr a.arg0 i + 4) s fun len =>
      .next (s.goto (validateNext i (countOf a.arg1) addr flags len))
  | .bad => raise .badXferArgs s
  | .msgs => .next ((s.setCursor b { s.cursorAt b with msgs := a.arg0 }).goto (.xferEntry .count))
  | .count => .next ((s.setCursor b { s.cursorAt b with count := countOf a.arg1 }).goto (.xferEntry .timeout))
  | .timeout => .next ((s.setCursor b { s.cursorAt b with timeout := a.arg2 }).goto (.xferEntry .errorFlags))
  | .errorFlags => .next ((s.setDev b { (s.i2cAt b).dev with errorFlags := 0 }).goto (.xferEntry .clearSr1))
  | .clearSr1 => .next ((s.setI2c b ((s.i2cAt b).writeSr1 sr1EntryWrite)).goto (.xferEntry .now))
  | .now => .next (s.goto (.xferEntry (.t0 s.now)))
  | .t0 now => .next ((s.setCursor b { s.cursorAt b with t0 := now }).goto (.xferLoad (.index 0)))

/-- The address of the current message's descriptor, `dev(b).msgs + 12*idx` (R157). -/
def currentDesc (s : State) (b : BusId) : Nat := descAddr (s.cursorAt b).msgs (s.cursorAt b).idx.toNat

/-- The message load (R157): the cursor's index, the four fields, the checks of R155, and `xferred <- 0`. -/
def xferLoadStep (b : BusId) (p : LoadPos) (s : State) : Result :=
  let d := currentDesc s b
  match p with
  | .index i => .next ((s.setCursor b { s.cursorAt b with idx := BitVec.ofNat 16 i }).goto (.xferLoad .addr))
  | .addr => memRead16 d s fun addr => .next (s.goto (.xferLoad (.flags addr)))
  | .flags addr => memRead16 (d + 2) s fun flags => .next (s.goto (.xferLoad (.len addr flags)))
  | .len addr flags => memRead16 (d + 4) s fun len => .next (s.goto (.xferLoad (.data addr flags len)))
  | .data addr flags len => memRead32 (d + 8) s fun data =>
      .next (s.goto (if descOk addr flags len then .xferLoad (.clear (msgOf addr flags len data)) else .xferEntry .bad))
  | .clear m => memWrite16 (d + 6) 0 s fun s => .next (s.goto (.xfer m (.wait .pendStart .sr1)))

/-- What follows a message (R153 step 4, R163, R164): the next message without a stop, or the stop waits. -/
def afterMessage (s : State) (b : BusId) (m : Msg) : Pos :=
  let i := (s.cursorAt b).idx.toNat
  if i + 1 < (s.cursorAt b).count.toNat then .xferLoad (.index (i + 1)) else .xfer m (.wait .pendStop .sr1)

/-- Where a satisfied wait leads (R153, R158 to R162, R164). A wait for RXNE is satisfied by the flag alone, also by one that
an aborted read has left (DEDUCED against R177, log entry 25). -/
def afterWait (s : State) (b : BusId) (m : Msg) (w : WaitPt) : Pos :=
  match w with
  | .pendStart => .xfer m (if m.rd then .ack else .start)
  | .sb => .xfer m (if m.ten then .header else .addr7)
  | .add10 => .xfer m .low
  | .addr => .xfer m (if m.ten && m.rd then .clearMid else .clearAddr)
  | .sbR => .xfer m .headerR
  | .addrR => .xfer m .clearAddr
  | .rxne k => .xfer m (if k + 2 = m.len then .ackOff k else .rxData k)
  | .txe k => .xfer m (.txFetch k)
  | .btf => afterMessage s b m
  | .pendStop => .xfer m .stop
  | .pendDone => .xfer m (.exitState .ok)

/-- Elapsed time since the transfer's start exceeds the timeout (R165, R166). -/
def timedOut (c : Cursor) (now : Word) : Bool := decide (c.timeout.toNat < (now - c.t0).toNat)

/-- One micro-step of `WaitI2C` (R165): the SR1 read with the fault test and an SR1 condition; the CR1 read of a CR1
condition; the time test. -/
def waitStep (b : BusId) (m : Msg) (w : WaitPt) (t : WaitStage) (s : State) : Result :=
  match t with
  | .sr1 =>
    let v := (s.i2cAt b).readSr1.1
    let s := s.setI2c b (s.i2cAt b).readSr1.2
    if hasFault v then .next (s.goto (.xfer m (.faultFlags v)))
    else
      match w.sr1Bit with
      | none => .next (s.goto (.xfer m (.wait w .cr1)))
      | some i => .next (s.goto (if testBit v i then afterWait s b m w else .xfer m (.wait w .now)))
  | .cr1 => .next (s.goto (if noPending (s.i2cAt b).cr1 then afterWait s b m w else .xfer m (.wait w .now)))
  | .now => .next (s.goto (.xfer m (if timedOut (s.cursorAt b) s.now then .exitStop .timeout else .wait w .sr1)))

/-- Where data starts after ADDR has been cleared (R153 step 3). -/
def firstData (s : State) (b : BusId) (m : Msg) : Pos :=
  if m.len = 0 then afterMessage s b m
  else .xfer m (if m.rd then .wait (.rxne 0) .sr1 else .txFetch 0)

/-- Where a read message goes after byte k has been counted (R161). -/
def afterRx (s : State) (b : BusId) (m : Msg) (k : Nat) : Pos :=
  if k + 1 < m.len then .xfer m (.wait (.rxne (k + 1)) .sr1) else afterMessage s b m

/-- Where a write message goes after byte k has been counted (R162). -/
def afterTx (m : Msg) (k : Nat) : Pos :=
  .xfer m (if k + 1 < m.len then .wait (.txe (k + 1)) .sr1 else .wait .btf .sr1)

/-- One micro-step inside a message or of an exit (R158 to R164, R169, R170, R172). -/
def xferStep (b : BusId) (m : Msg) (p : XferPos) (s : State) : Result :=
  let x := s.i2cAt b
  match p with
  | .wait w t => waitStep b m w t s
  | .ack => .next ((s.modifyI2cCr1 b (putBit x.cr1 i2cACK (decide (2 ≤ m.len)))).goto (.xfer m .start))
  | .start => .next ((s.modifyI2cCr1 b (setBit x.cr1 i2cSTART)).goto (.xfer m (.wait .sb .sr1)))
  | .addr7 => .next ((s.writeI2cDr b m.addr7Byte).goto (.xfer m (.wait .addr .sr1)))
  | .header => .next ((s.writeI2cDr b (m.headerByte false)).goto (.xfer m (.wait .add10 .sr1)))
  | .low => .next ((s.writeI2cDr b m.lowByte).goto (.xfer m (.wait .addr .sr1)))
  | .clearMid => .next ((s.readI2cSr2 b).goto (.xfer m .restart))
  | .restart => .next ((s.modifyI2cCr1 b (setBit x.cr1 i2cSTART)).goto (.xfer m (.wait .sbR .sr1)))
  | .headerR => .next ((s.writeI2cDr b (m.headerByte true)).goto (.xfer m (.wait .addrR .sr1)))
  | .clearAddr => .next ((s.readI2cSr2 b).goto (firstData s b m))
  | .ackOff k => .next ((s.modifyI2cCr1 b (clearBit x.cr1 i2cACK)).goto (.xfer m (.rxData k)))
  | .rxData k => .next ((s.setI2c b x.readDr.2).goto (.xfer m (.rxStore k (x.readDr.1.setWidth 8))))
  | .rxStore k v => memWrite8 (m.data.toNat + k) v s fun s => .next (s.goto (.xfer m (.rxCount k)))
  | .rxCount k => memWrite16 (currentDesc s b + 6) (BitVec.ofNat 16 (k + 1)) s fun s =>
      .next (s.goto (afterRx s b m k))
  | .txFetch k => memRead8 (m.data.toNat + k) s fun v => .next (s.goto (.xfer m (.txData k v)))
  | .txData k v => .next ((s.writeI2cDr b v).goto (.xfer m (.txCount k)))
  | .txCount k => memWrite16 (currentDesc s b + 6) (BitVec.ofNat 16 (k + 1)) s fun s => .next (s.goto (afterTx m k))
  | .stop => .next ((s.modifyI2cCr1 b (setBit x.cr1 i2cSTOP)).goto (.xfer m (.wait .pendDone .sr1)))
  | .faultFlags v =>
      .next ((s.setDev b { x.dev with errorFlags := (v &&& errMask).setWidth 16 }).goto (.xfer m (.exitStop .protocol)))
  | .exitStop e => .next ((s.modifyI2cCr1 b (setBit x.cr1 i2cSTOP)).goto (.xfer m (.exitState e)))
  | .exitState e => .next ((s.setDev b { x.dev with state := e.devState }).goto (.xfer m (.exitFlight e)))
  | .exitFlight e => .next ((s.setI2c b { x with inflight := none }).goto (.xfer m (.exitResult e)))
  | .exitResult e => .next ((s.setRes e.code).goto .ret)

/-- I2C.MASTER_XFER (R153). -/
def execI2cMasterXfer (bus : BitVec 4) (s : State) : Result :=
  match i2cBusOf s.plat bus with
  | none => raise .invalidBus s
  | some b =>
    match s.me.pos with
    | .start => xferGuard b s
    | .xferEntry p => xferEntryStep b p s
    | .xferLoad p => xferLoadStep b p s
    | .xfer m p => xferStep b m p s
    | .ret => .next s.returned
    | _ => .fault .lostPosition

end Sys2Proof.Machine
end

