-- ==== Sys2Proof/Machine/Dispatch.lean ====
section
/-! DEFINITION. One micro-step of the command the running context has issued: one arm per command of the opcode table. -/

namespace Sys2Proof.Machine

def exec (i : Instr) (s : State) : Host.Outcome State Fault Refusal :=
  match i with
  | .spiBegin bus tier ord mode => Sys2Proof.Machine.execSpiBegin bus tier ord mode s
  | .spiBeginSlave bus ord mode => Sys2Proof.Machine.execSpiBeginSlave bus ord mode s
  | .spiEnd bus => Sys2Proof.Machine.execSpiEnd bus s
  | .spiRead bus => Sys2Proof.Machine.execSpiRead bus s
  | .spiWrite bus => Sys2Proof.Machine.execSpiWrite bus s
  | .spiTransfer bus byte => Sys2Proof.Machine.execSpiTransfer bus byte s
  | .spiBaudCalc bus tier => Sys2Proof.Machine.execSpiBaudCalc bus tier s
  | .i2cInit bus => Sys2Proof.Machine.execI2cInit bus s
  | .i2cMasterEnable bus flags => Sys2Proof.Machine.execI2cMasterEnable bus flags s
  | .i2cMasterXfer bus => Sys2Proof.Machine.execI2cMasterXfer bus s
  | .i2cBusReset bus => Sys2Proof.Machine.execI2cBusReset bus s
  | .i2cTimingCalc bus flags => Sys2Proof.Machine.execI2cTimingCalc bus flags s

end Sys2Proof.Machine
end

