-- ==== Sys2Proof/Machine/Context.lean ====
section
/-! DEFINITION. A caller context's step: issuing a command and running its micro-steps (spec/10_state.md R23 to R26,
spec/30_encoding.md R92), and one step of whichever agent the environment chose (spec/48_peripheral_agents.md R179). -/

namespace Sys2Proof.Machine

/-- The caller's next act, in a context with no command running. `issue` presents CMD and ARG0 to ARG2 together, and the
engine takes its snapshot (R23); `readRes` reads RES, a fault before any command has written it (R24); `store` is a write of
the caller's own memory, admitted like every access (R67, R220). With no act left the caller waits (R235). -/
def callerStep (s : State) : Result :=
  match s.me.program with
  | [] => .next s
  | .issue p :: rest => .next (s.setMe { s.me.present p with program := rest })
  | .readRes :: rest =>
      if s.me.resWritten then .next (s.setMe { s.me with lastRead := s.me.res, program := rest })
      else .fault .resUnwritten
  | .store addr v :: rest =>
      memWrite8 addr.toNat v s fun s => .next (s.setMe { s.me with program := rest })

/-- One micro-step of the running command: the snapshot's word is decoded, and its command's meaning called; a word that is
no command is the configuration error IllegalCommand (R92 steps 1 and 2). -/
def commandStep (s : State) : Result :=
  match decode s.me.issued.cmd with
  | .ok i => exec i s
  | .error _ => raise .illegalCommand s

/-- One step of the chosen context: none for a context that does not exist or has halted (R210); the caller's act where no
command runs; else a micro-step of the running command (R12, R26). -/
def ctxStep (s : State) : Result :=
  if s.cur < s.ctxs.length then
    if s.me.fault.isSome then .next s
    else if s.me.pos = .ready then callerStep s
    else commandStep s
  else .next s

/-- One step of the agent the environment chose (R10, R179). -/
def agentStep (s : State) : Result :=
  match s.turn.agent with
  | .ctx => ctxStep s
  | .port cmd arg0 arg1 arg2 =>
      .next (portStep s.cur { cmd := cmd, arg0 := arg0, arg1 := arg1, arg2 := arg2 } s)
  | .spiStart b => .next (spiStartStep b s.turn.byte s)
  | .spiComplete b => .next (spiCompleteStep b s.turn.byte s)
  | .i2c b k => .next (i2cPerStep b k s.turn.byte s.turn.bit s)
  | .time => .next (timeStep s)

/-- The choice of context 0's step, put before the listed choices, with the word presented and not yet run: what
`withFetchWord` does (log entry 3). The operand registers are 0; a halt of context 0 is lifted so that its next step
runs. -/
def placeCommand (w : Word) (s : State) : State :=
  let p : Port := { cmd := w, arg0 := 0, arg1 := 0, arg2 := 0 }
  { s with
    ctxs := { (s.ctxAt 0).present p with fault := none } :: s.ctxs.tail
    env := { agent := .ctx, ctx := 0, byte := 0, bit := false } :: s.env }

end Sys2Proof.Machine
end

