-- ==== Sys2Proof/Machine/Step.lean ====
section
/-! DEFINITION. One step of the machine: the agent the environment chose takes its atomic step (spec/48_peripheral_agents.md
R179), and the choice is used up. -/

namespace Sys2Proof.Machine

/-- One atomic step of one agent (R12, R179). -/
def step (s : State) : Host.Outcome State Fault Refusal :=
  andThen (agentStep s) fun t => .next t.advance

/-- The state in which the next step runs the command word `w` in context 0, from its first micro-step. -/
def State.withFetchWord (s : State) (nbits w : Nat) : State :=
  placeCommand (BitVec.ofNat 32 (w % 2 ^ nbits)) s

end Sys2Proof.Machine
end

