-- ==== Sys2Proof/WellFormed.lean ====
section
/-! DEFINITION. Well-formed commands: those whose inline operands no rule rejects on a platform that has every bus.
Every term of `Instr` has an encoding (its fields have the widths of R85 to R89), so well-formedness is about the operand
values the spec calls invalid but encodable (R92 step 3, R95). -/

namespace Sys2Proof

namespace Instr

/-- BUS names a bus that some platform has: 1, 2 or 3 (R8, R92 step 3). -/
def busOk (bus : BitVec 4) : Bool := 1 ≤ bus.toNat && bus.toNat ≤ 3

/-- MODE is a clock mode 0..3 (R22, R116). -/
def modeOk (mode : BitVec 4) : Bool := mode.toNat < 4

/-- TIER is one of the eight tiers, and reachable from the bus's clock domain: tier 7 is not on SPI1 (R102, R103). -/
def tierOk (bus : BitVec 4) (tier : BitVec 8) : Bool :=
  tier.toNat < Config.nTiers && (bus != 1 || tier.toNat + 1 ≤ Config.brMax)

/-- REMAP only on a bus with an alternate pin mapping, which is bus 1 (R143, R145). -/
def remapOk (bus : BitVec 4) (flags : BitVec 4) : Bool := !flags.getLsbD 2 || bus == 1

/-- The static operand checks of a command. -/
def wf : Instr → Bool
  | .spiBegin bus tier _ mode => busOk bus && modeOk mode && tierOk bus tier
  | .spiBeginSlave bus _ mode => busOk bus && modeOk mode
  | .spiEnd bus => busOk bus
  | .spiRead bus => busOk bus
  | .spiWrite bus => busOk bus
  | .spiTransfer bus _ => busOk bus
  | .spiBaudCalc bus tier => busOk bus && tierOk bus tier
  | .i2cInit bus => busOk bus
  | .i2cMasterEnable bus flags => busOk bus && remapOk bus flags
  | .i2cMasterXfer bus => busOk bus
  | .i2cBusReset bus => busOk bus
  | .i2cTimingCalc bus _ => busOk bus

end Instr

end Sys2Proof
end

