-- ==== Sys2Proof/Safety.lean ====
section
/-! DEFINITION. The terms statements are made in: runs, the environment assumptions of spec/48_peripheral_agents.md R180,
the invariants a state keeps, and what a safe step is. -/

namespace Sys2Proof

/-! ## Choices of the environment -/

/-- A turn of a context, with the level a GPIO read draws. -/
def Turn.ofCtx (c : Nat) (bit : Bool := true) : Turn := { agent := .ctx, ctx := c, byte := 0, bit := bit }

/-- A turn of another agent, with its draws. -/
def Turn.ofAgent (a : Agent) (byte : Byte := 0) (bit : Bool := true) : Turn :=
  { agent := a, ctx := 0, byte := byte, bit := bit }

/-- The fault steps of R199. -/
def I2cStep.isFault : I2cStep → Bool
  | .busError => true
  | .arbitrationLoss => true
  | .overrun => true
  | .accept | .generate | .address | .address2 | .transmit | .receive | .stop => false

/-- A choice that `NO_FAULT(b)` allows: no fault step on bus b, and every acknowledge draw an ACK (R180, R202). -/
def Turn.noFault (b : BusId) (t : Turn) : Bool :=
  match t.agent with
  | .i2c b' k => b' != b || (!k.isFault && (t.bit || !(k == .address || k == .address2 || k == .transmit)))
  | .ctx | .port _ _ _ _ | .spiStart _ | .spiComplete _ | .time => true

/-! ## Command words and commands -/

/-- The opcodes that name no command: 0x00, 0x08 to 0x0F and 0x15 to 0xFF (R94). -/
def illegalOp (w : Word) : Bool :=
  let op := (w.extractLsb' 0 8).toNat
  op == 0 || (decide (0x08 ≤ op) && decide (op ≤ 0x0F)) || decide (0x15 ≤ op)

/-- A reserved bit of the word's format is 1 (R94): bits 15:12 always; 31:12 in C0; 31:29 in CS, and 23:16 too in
SPI.BEGIN_SLAVE; 31:24 in CB; 31:20 in CF. -/
def reservedBitSet (w : Word) : Bool :=
  w.extractLsb' 12 4 != 0 ||
    match (w.extractLsb' 0 8).toNat with
    | 0x01 => w.extractLsb' 29 3 != 0
    | 0x02 => w.extractLsb' 29 3 != 0 || w.extractLsb' 16 8 != 0
    | 0x06 | 0x07 => w.extractLsb' 24 8 != 0
    | 0x11 | 0x14 => w.extractLsb' 20 12 != 0
    | _ => w.extractLsb' 12 20 != 0

/-- The commands whose rule says `RES <- v` (R24). -/
def Instr.writesRes : Instr → Bool
  | .spiTransfer _ _ | .spiBaudCalc _ _ | .i2cTimingCalc _ _ | .i2cMasterXfer _ => true
  | .spiBegin _ _ _ _ | .spiBeginSlave _ _ _ | .spiEnd _ | .spiRead _ | .spiWrite _ | .i2cInit _
  | .i2cMasterEnable _ _ | .i2cBusReset _ => false

/-- The commands of the SPI family (R92: OP 0x01 to 0x07). -/
def Instr.isSpi : Instr → Bool
  | .spiBegin _ _ _ _ | .spiBeginSlave _ _ _ | .spiEnd _ | .spiRead _ | .spiWrite _ | .spiTransfer _ _
  | .spiBaudCalc _ _ => true
  | .i2cInit _ | .i2cMasterEnable _ _ | .i2cMasterXfer _ | .i2cBusReset _ | .i2cTimingCalc _ _ => false

/-- The commands that access an instance: all but the two calculators (R222). -/
def Instr.accesses : Instr → Bool
  | .spiBaudCalc _ _ | .i2cTimingCalc _ _ => false
  | .spiBegin _ _ _ _ | .spiBeginSlave _ _ _ | .spiEnd _ | .spiRead _ | .spiWrite _ | .spiTransfer _ _
  | .i2cInit _ | .i2cMasterEnable _ _ | .i2cMasterXfer _ | .i2cBusReset _ => true

end Sys2Proof

namespace Sys2Proof.Machine

/-! ## Runs -/

/-- `n` steps of the machine. -/
def steps : Nat → State → Result
  | 0, s => .next s
  | n + 1, s => andThen (step s) (steps n)

/-- `n` micro-steps of the command `i` in the running context, with no other agent's step between them: one of the
interleavings of R12. -/
def runExec (i : Instr) : Nat → State → Result
  | 0, s => .next s
  | n + 1, s => andThen (exec i s) (runExec i n)

/-- The chosen context exists, has not halted, and stands at position `p`: its next micro-step is the one at `p`. -/
structure RunsAt (s : State) (p : Pos) : Prop where
  here : s.cur < s.ctxs.length
  live : s.me.fault = none
  pos  : s.me.pos = p

/-- What a command leaves to its context when it returns with RES unchanged (R24, R26): one more command completed, and
ready. -/
def State.completed (s : State) : State := s.returned

/-- What a command leaves to its context when it returns having written RES (R24, R26). -/
def State.completedWith (s : State) (v : Word) : State := (s.setRes v).returned

/-- The fatal halt as a state (R210): the fault record of kind `k` in the running context. -/
def State.halted (s : State) (k : ErrorKind) : State :=
  s.setMe { s.me with
    fault := some { kind := k, cmd := s.me.issued.cmd, bus := s.me.issued.cmd.extractLsb' 8 4 } }

/-- The running context has claimed SPI instance b (R222). -/
def State.holdingSpi (s : State) (b : BusId) : State := s.setSpi b { s.spiAt b with inflight := some s.cur }

/-- The running context has claimed I2C instance b (R222). -/
def State.holdingI2c (s : State) (b : BusId) : State := s.setI2c b { s.i2cAt b with inflight := some s.cur }

/-! ## Environment assumptions (R180, R202, R206). No definition of the machine uses them. -/

/-- An infinite run: every state is the next state of the one before. -/
def IsRun (σ : Nat → State) : Prop := ∀ n, step (σ n) = .next (σ (n + 1))

/-- Weak fairness: what stays enabled from some point on is taken again and again (R180). -/
def WeaklyFair (enabled taken : State → Prop) (σ : Nat → State) : Prop :=
  ∀ m, (∀ n, m ≤ n → enabled (σ n)) → ∃ n, m ≤ n ∧ taken (σ n)

/-- `Time` is weakly fair (R180, R203). -/
def TimeFair (σ : Nat → State) : Prop :=
  WeaklyFair (fun _ => True) (fun s => s.turn.agent = .time) σ

/-- Context c is weakly fair (R180). -/
def ContextFair (c : Nat) (σ : Nat → State) : Prop :=
  WeaklyFair (fun s => c < s.ctxs.length ∧ (s.ctxAt c).fault = none)
    (fun s => s.turn.agent = .ctx ∧ s.cur = c) σ

/-- The steps of `SpiPer(b)` are weakly fair in master mode (R180). -/
def SpiMasterFair (b : BusId) (σ : Nat → State) : Prop :=
  WeaklyFair (fun s => spiValid s.plat b ∧ (s.spiAt b).mstr ∧ (s.spiAt b).startEnabled)
      (fun s => s.turn.agent = .spiStart b) σ ∧
    WeaklyFair (fun s => spiValid s.plat b ∧ (s.spiAt b).mstr ∧ (s.spiAt b).completeEnabled)
      (fun s => s.turn.agent = .spiComplete b) σ

/-- `PEER_RESPONSIVE(b)`: the bus steps of `I2cPer(b)` are weakly fair (R180, R202). -/
def PeerResponsive (b : BusId) (σ : Nat → State) : Prop :=
  ∀ k : I2cStep, k.isFault = false →
    WeaklyFair (fun s => i2cValid s.plat b ∧ (s.i2cAt b).stepEnabled k) (fun s => s.turn.agent = .i2c b k) σ

/-- `NO_FAULT(b)` on a run (R180, R202). -/
def NoFault (b : BusId) (σ : Nat → State) : Prop := ∀ n, (σ n).turn.noFault b = true

/-- The step of `s` is a `GpioRead(b, line)`: a context inside a bus reset of bus b at its read of that line (R148, R206). -/
def State.readsLine (s : State) (b : BusId) (line : Line) : Prop :=
  s.turn.agent = .ctx ∧ s.cur < s.ctxs.length ∧ s.me.fault = none ∧
    s.me.pos = .busReset (match line with
      | .scl => .readScl
      | .sda => .readSda) ∧
    ∃ i, decode s.me.issued.cmd = .ok i ∧ i.isSpi = false ∧ i2cBusOf s.plat i.bus = some b

/-- `BUS_RELEASES(b)`: from some point on, every read of a line whose latch is 1 reads 1; nothing else is assumed of the
draws (R206). -/
def BusReleases (b : BusId) (line : Line) (σ : Nat → State) : Prop :=
  ∃ m, ∀ n, m ≤ n → (σ n).readsLine b line → ((σ n).i2cAt b).latch line = true → gpioRead b line (σ n) = true

/-! ## Register invariants -/

/-- Only bits of `m` are 1 in `v`. -/
def within (m v : Word) : Bool := v &&& ~~~m == 0

/-- What every SPI instance keeps: CR1 has no bit above 15 (R9); SR shows only RXNE, TXE, OVR and BSY (R192); the
registers the engine never writes hold their reset values (R39, R42); and no frame is in flight while SPE = 0 (R189). -/
def SpiBus.ok (x : SpiBus) : Bool :=
  within spiCr1Mask x.cr1 && within 0x000000C3 x.sr
    && x.cr2 == SpiBus.reset.cr2 && x.crcpr == SpiBus.reset.crcpr && x.rxcrcr == SpiBus.reset.rxcrcr
    && x.txcrcr == SpiBus.reset.txcrcr && x.i2scfgr == SpiBus.reset.i2scfgr && x.i2spr == SpiBus.reset.i2spr
    && (x.spe || !x.shActive)

/-- What every I2C instance keeps: of CR1 only PE, START, STOP and ACK (R45); CR2 with no interrupt or DMA enable (R46,
R218); reserved bits of CCR and TRISE 0 (R51, R52); the own addresses at reset (R47); an 8-bit DR (R48); of SR1 only the
flags that can be set (R49, R199); of SR2 only MSL, BUSY and TRA (R50); error flags within ERRMASK (R34); and a disabled
peripheral idle, with SR2 = 0 (R201). -/
def I2cBus.ok (x : I2cBus) : Bool :=
  within 0x00000701 x.cr1 && within 0x0000003F x.cr2 && within i2cCcrMask x.ccr && within i2cTriseMask x.trise
    && x.oar1 == 0 && x.oar2 == 0 && within 0x000000FF x.dr && within 0x00000FCF x.sr1 && within 0x00000007 x.sr2
    && x.dev.errorFlags &&& ~~~(errMask.setWidth 16) == 0
    && (x.pe || (x.phase == .idle && x.sr2 == 0))

/-- Every bus instance keeps its register invariant. -/
def State.busesOk (s : State) : Prop := ∀ b, (s.spiAt b).ok = true ∧ (s.i2cAt b).ok = true

/-! ## Control invariants -/

/-- The positions a command passes through, other than `ready` (R12, R26). -/
def posFits (i : Instr) (p : Pos) : Bool :=
  match p with
  | .ready => false
  | .start => true
  | .ret => true
  | .cfg _ => match i with
    | .spiBegin _ _ _ _ | .spiBeginSlave _ _ _ => true
    | _ => false
  | .ending _ => match i with
    | .spiEnd _ => true
    | _ => false
  | .reading _ => match i with
    | .spiRead _ => true
    | _ => false
  | .writing _ => match i with
    | .spiWrite _ => true
    | _ => false
  | .transfer _ => match i with
    | .spiTransfer _ _ => true
    | _ => false
  | .init _ => match i with
    | .i2cInit _ => true
    | _ => false
  | .enabling _ => match i with
    | .i2cMasterEnable _ _ => true
    | _ => false
  | .busReset _ => match i with
    | .i2cMasterEnable _ _ | .i2cBusReset _ => true
    | _ => false
  | .xferEntry _ | .xferLoad _ | .xfer _ _ => match i with
    | .i2cMasterXfer _ => true
    | _ => false

/-- A context's position belongs to the command it has issued; a word that is no command never leaves `start`. -/
def Ctx.posOk (x : Ctx) : Bool :=
  x.pos == .ready ||
    match decode x.issued.cmd with
    | .ok i => posFits i x.pos
    | .error _ => x.pos == .start

/-- The instance a command holds at a position (R27, R222): none before its first micro-step, none for a calculator, none
for an I2C.MASTER_XFER that has released it. -/
def heldAt (p : Platform) (i : Instr) (pos : Pos) : Option InstId :=
  match i with
  | .spiBegin bus _ _ _ | .spiBeginSlave bus _ _ | .spiEnd bus | .spiRead bus | .spiWrite bus | .spiTransfer bus _ =>
      if pos = .ready ∨ pos = .start then none else (spiBusOf p bus).map .spi
  | .i2cInit bus | .i2cMasterEnable bus _ | .i2cBusReset bus =>
      if pos = .ready ∨ pos = .start then none else (i2cBusOf p bus).map .i2c
  | .i2cMasterXfer bus =>
      match pos with
      | .ready | .start | .ret | .xfer _ (.exitResult _) => none
      | _ => (i2cBusOf p bus).map .i2c
  | .spiBaudCalc _ _ | .i2cTimingCalc _ _ => none

/-- The in-flight owner of an instance (R27). -/
def State.ownerOf (s : State) : InstId → Option Nat
  | .spi b => (s.spiAt b).inflight
  | .i2c b => (s.i2cAt b).inflight

/-- I2C.MASTER_ENABLE between its PE clear and its last timing register (R143). -/
def programsTiming (pos : Pos) : Bool :=
  match pos with
  | .enabling .cr2 | .enabling .ccr | .enabling .trise => true
  | _ => false

/-- I2C.MASTER_XFER between its guard and the update of the device state at its exit (R33, R153). -/
def xferRuns (pos : Pos) : Bool :=
  match pos with
  | .xferEntry _ | .xferLoad _ => true
  | .xfer _ (.exitFlight _) | .xfer _ (.exitResult _) => false
  | .xfer _ _ => true
  | _ => false

/-- A context is where its command can be, holds the instance its command runs on, programs timing registers only
with the peripheral disabled, and transfers only on a device that is `Busy` (R26, R27, R33, R222, R225). -/
structure State.ctxOk (s : State) (c : Nat) : Prop where
  pos    : (s.ctxAt c).posOk = true
  held   : ∀ i inst, decode (s.ctxAt c).issued.cmd = .ok i →
    heldAt s.plat i (s.ctxAt c).pos = some inst → s.ownerOf inst = some c
  timing : ∀ i b, decode (s.ctxAt c).issued.cmd = .ok i → programsTiming (s.ctxAt c).pos = true →
    heldAt s.plat i (s.ctxAt c).pos = some (.i2c b) → (s.i2cAt b).pe = false
  busy   : ∀ i b, decode (s.ctxAt c).issued.cmd = .ok i → xferRuns (s.ctxAt c).pos = true →
    heldAt s.plat i (s.ctxAt c).pos = some (.i2c b) → (s.i2cAt b).dev.state = .busy

/-- Every context is in order. -/
def State.controlOk (s : State) : Prop := ∀ c, c < s.ctxs.length → s.ctxOk c

/-- A device that is `Busy` is owned by a context inside I2C.MASTER_XFER on it, past the guard and before the update of the
device state at the exit; the context may have halted there (R33, R146, R210, R222). -/
def State.busyOk (s : State) : Prop :=
  ∀ b, (s.i2cAt b).dev.state = .busy → ∃ c i, c < s.ctxs.length ∧ (s.i2cAt b).inflight = some c ∧
    decode (s.ctxAt c).issued.cmd = .ok i ∧ xferRuns (s.ctxAt c).pos = true ∧
    heldAt s.plat i (s.ctxAt c).pos = some (.i2c b)

/-- DR holds the last received byte: no byte has been written to DR since. There a read of DR returns what R48 says. -/
def I2cBus.holdsReceived (x : I2cBus) : Bool := x.dr.setWidth 8 == x.received

/-- Context c waits for a received byte that no step can bring: SPI.READ on a master with nothing in its buffers or its
shifter. It owns the instance, and no other context is inside a command on it (R27, R128, R214, R222). -/
structure ReadWaits (s : State) (c : Nat) (b : BusId) (k : Nat) : Prop where
  command : ∃ bus, decode (s.ctxAt c).issued.cmd = .ok (.spiRead bus) ∧ spiBusOf s.plat bus = some b
  waiting : (s.ctxAt c).pos = .reading (.wait k)
  live    : (s.ctxAt c).fault = none
  owner   : (s.spiAt b).inflight = some c
  others  : ∀ d i, d ≠ c → decode (s.ctxAt d).issued.cmd = .ok i → heldAt s.plat i (s.ctxAt d).pos ≠ some (.spi b)
  master  : (s.spiAt b).mstr = true
  unsent  : (s.spiAt b).txe = true
  idle    : (s.spiAt b).shActive = false
  empty   : (s.spiAt b).rxne = false

/-- A safe step: a next state, or the one fault the spec gives the machine, a read of RES that nothing has written
(R24). -/
def SafeStep (r : Result) : Prop := (∃ t, r = .next t) ∨ r = .fault .resUnwritten

end Sys2Proof.Machine
end

