-- ==== Sys2Proof/Certificates/Slice0/Obligations.lean ====
section
/-! DEFINITION. The statements for the provers. Each docstring names the rules of spec/ it formalises. "Uninterrupted"
means that no other agent steps between the micro-steps, one of the interleavings of R12; where other agents must act, the
statement is about `steps` with the environment's choices listed. A final state written as an update of the first one is
also the frame: everything not updated is as before. -/

section Statements

open Sys2Proof Sys2Proof.Machine

/-! ## Encoding and decoding -/

/-- The ten words of R99 decode to the commands they stand for. -/
def Obligations.ExampleWordsDecode : Prop :=
  decode 0x10040101 = .ok (.spiBegin 1 4 1 0) ∧
  decode 0x00A50106 = .ok (.spiTransfer 1 0xA5) ∧
  decode 0x00000103 = .ok (.spiEnd 1) ∧
  decode 0x03000202 = .ok (.spiBeginSlave 2 0 3) ∧
  decode 0x00070207 = .ok (.spiBaudCalc 2 7) ∧
  decode 0x00000110 = .ok (.i2cInit 1) ∧
  decode 0x00030111 = .ok (.i2cMasterEnable 1 0b0011) ∧
  decode 0x00000112 = .ok (.i2cMasterXfer 1) ∧
  decode 0x00000213 = .ok (.i2cBusReset 2) ∧
  decode 0x00000114 = .ok (.i2cTimingCalc 1 0)

/-- Every command, with every operand its encoding admits, decodes from its own word (R85 to R91). -/
def Obligations.DecodeOfEncode : Prop :=
  ∀ i : Instr, decode (encode i) = .ok i

/-- A word that decodes is the word of its command: no bit is ignored (R91, R94). -/
def Obligations.EncodeOfDecode : Prop :=
  ∀ (w : Word) (i : Instr), decode w = .ok i → encode i = w

/-- The words that are no command are exactly those with an opcode of R94's list or a reserved bit of their format set; a
context that has issued one halts with IllegalCommand (R94). -/
def Obligations.IllegalWordsHalt : Prop :=
  ∀ w : Word, ((∃ e, decode w = .error e) ↔ (illegalOp w = true ∨ reservedBitSet w = true)) ∧
    ∀ s : State, s.turn.agent = .ctx → RunsAt s .start → s.me.issued.cmd = w →
      (illegalOp w = true ∨ reservedBitSet w = true) → step s = .next (s.halted .illegalCommand).advance

/-! ## Steps and contexts -/

/-- A step of a context whose command decodes to `i` is one micro-step of `i`, with the choice of the environment used up;
so it is for the word that `withFetchWord` places (R12, R26, R92). The second clause is the model's choice: `withFetchWord` is
its host interface, which also lifts a halt of context 0 (log entry 3). -/
def Obligations.StepRunsTheDecodedCommand : Prop :=
  (∀ (s : State) (i : Instr), s.turn.agent = .ctx → s.cur < s.ctxs.length → s.me.fault = none → s.me.pos ≠ .ready →
    decode s.me.issued.cmd = .ok i → step s = andThen (exec i s) fun t => .next t.advance) ∧
  ∀ (s : State) (i : Instr), step (s.withFetchWord 32 (encode i).toNat) =
    andThen (exec i (s.withFetchWord 32 (encode i).toNat)) fun t => .next t.advance

/-- A halted context never changes again, whatever agent steps (R28, R210, R235). -/
def Obligations.HaltedContextNeverChanges : Prop :=
  ∀ (s t : State) (c : Nat), step s = .next t → (s.ctxAt c).fault.isSome = true → t.ctxAt c = s.ctxAt c

/-- Issuing presents the four registers together and the engine takes its snapshot of them; no step changes the snapshot of
a running command; and a write of the port changes the port alone (R23). -/
def Obligations.IssueTakesASnapshot : Prop :=
  (∀ (s : State) (p : Port) (rest : List CallerAct), s.turn.agent = .ctx → RunsAt s .ready →
    s.me.program = .issue p :: rest →
    step s = .next (s.setMe { s.me with port := p, issued := p, pos := .start, program := rest }).advance) ∧
  (∀ (s t : State) (c : Nat), step s = .next t → (s.ctxAt c).pos ≠ .ready →
    (t.ctxAt c).issued = (s.ctxAt c).issued) ∧
  ∀ (s : State) (a b c d : Word), s.turn.agent = .port a b c d → s.me.fault = none →
    step s = .next (s.setMe { s.me with port := { cmd := a, arg0 := b, arg1 := c, arg2 := d } }).advance

/-- RES is written by no command but SPI.TRANSFER, SPI.BAUD_CALC, I2C.TIMING_CALC and I2C.MASTER_XFER, and by those only
in their own context; at power-on it holds no value; a read before the first write is a fault, a later one gives its
value (R24). That the run ends in an assertion of the whole machine, of the two forms that S1 of 93_implementation_defined.md
allows, is the model's choice (log entry 8), as is `lastRead`, the place a caller reads RES into (log entry 18). -/
def Obligations.ResWrittenByFourCommands : Prop :=
  (∀ (i : Instr) (s t : State), exec i s = .next t → i.writesRes = false →
    t.me.res = s.me.res ∧ t.me.resWritten = s.me.resWritten) ∧
  (∀ (i : Instr) (s t : State) (c : Nat), exec i s = .next t → c ≠ s.cur → t.ctxAt c = s.ctxAt c) ∧
  (∀ c, (State.reset.ctxAt c).resWritten = false) ∧
  (∀ (s : State) (rest : List CallerAct), s.turn.agent = .ctx → RunsAt s .ready → s.me.program = .readRes :: rest →
    s.me.resWritten = false → step s = .fault .resUnwritten) ∧
  ∀ (s : State) (rest : List CallerAct), s.turn.agent = .ctx → RunsAt s .ready → s.me.program = .readRes :: rest →
    s.me.resWritten = true → step s = .next (s.setMe { s.me with lastRead := s.me.res, program := rest }).advance

/-- The values the spec states for power-on; what it calls a draw is not mentioned (R233). -/
def Obligations.PowerOnValues : Prop :=
  0 < State.reset.ctxs.length ∧
  (∀ c, (State.reset.ctxAt c).pos = .ready ∧ (State.reset.ctxAt c).fault = none ∧
    (State.reset.ctxAt c).resWritten = false ∧ (State.reset.ctxAt c).cc = 0) ∧
  (∀ b, let x := State.reset.spiAt b
    x.cr1 = 0x0000 ∧ x.cr2 = 0x0000 ∧ x.sr = 0x0002 ∧ x.crcpr = 0x0007 ∧ x.rxcrcr = 0 ∧ x.txcrcr = 0 ∧ x.i2scfgr = 0 ∧
    x.i2spr = 0x0002 ∧ x.txbuf = 0 ∧ x.rxbuf = 0 ∧ x.shTx = 0 ∧ x.shActive = false ∧ x.armedDR = false ∧
    x.pins = .unconfigured ∧ x.inflight = none) ∧
  (∀ b, let x := State.reset.i2cAt b
    x.cr1 = 0 ∧ x.cr2 = 0 ∧ x.oar1 = 0 ∧ x.oar2 = 0 ∧ x.dr = 0 ∧ x.received = 0 ∧ x.sr1 = 0 ∧ x.sr2 = 0 ∧ x.ccr = 0 ∧
    x.trise = 0x0002 ∧ x.phase = .idle ∧ x.dir = .write ∧ x.txPending = false ∧ x.nacked = false ∧ x.armed1 = false ∧
    x.pins = .unconfigured ∧ x.inflight = none ∧ x.dev.state = .disabled ∧ x.dev.errorFlags = 0) ∧
  State.reset.events = []

/-- A BUS field that names no bus of the command's family on this platform is the fatal halt InvalidBus, for every command
(R92 step 3). -/
def Obligations.UnknownBusHalts : Prop :=
  ∀ (i : Instr) (s : State),
    (if i.isSpi then spiBusOf s.plat i.bus = none else i2cBusOf s.plat i.bus = none) →
    exec i s = .next (s.halted .invalidBus)

/-- A command on an instance that another command holds is the fatal halt ConcurrentUse, with nothing accessed;
I2C.MASTER_XFER on a device that is Busy or Disabled returns -3 instead, whoever holds it (R222). -/
def Obligations.ConcurrentUseHalts : Prop :=
  (∀ (i : Instr) (s : State) (b : BusId) (c : Nat), RunsAt s .start → i.accesses = true → i.isSpi = true →
    spiBusOf s.plat i.bus = some b → (s.spiAt b).inflight = some c → exec i s = .next (s.halted .concurrentUse)) ∧
  (∀ (i : Instr) (s : State) (b : BusId) (c : Nat), RunsAt s .start → i.accesses = true → i.isSpi = false →
    i2cBusOf s.plat i.bus = some b → (s.i2cAt b).inflight = some c →
    (i.writesRes = true → (s.i2cAt b).dev.state ≠ .busy ∧ (s.i2cAt b).dev.state ≠ .disabled) →
    exec i s = .next (s.halted .concurrentUse)) ∧
  ∀ (s : State) (bus : BitVec 4) (b : BusId), RunsAt s .start → i2cBusOf s.plat bus = some b →
    ((s.i2cAt b).dev.state = .busy ∨ (s.i2cAt b).dev.state = .disabled) →
    exec (.i2cMasterXfer bus) s = .next (s.completedWith 0xFFFFFFFD)

/-- The operand checks of SPI.BEGIN (MODE, then TIER), SPI.BEGIN_SLAVE (MODE), SPI.BAUD_CALC (TIER) and I2C.MASTER_ENABLE
(REMAP) halt the context, which keeps the instance it claimed and has accessed nothing (R116, R117, R102, R143, R210). -/
def Obligations.InvalidOperandsHalt : Prop :=
  (∀ (s : State) (bus : BitVec 4) (tier : BitVec 8) (ord : BitVec 1) (mode : BitVec 4) (b : BusId),
    RunsAt s .start → spiBusOf s.plat bus = some b → (s.spiAt b).inflight = none →
    (4 ≤ mode.toNat →
      exec (.spiBegin bus tier ord mode) s = .next ((s.holdingSpi b).halted .invalidMode) ∧
      exec (.spiBeginSlave bus ord mode) s = .next ((s.holdingSpi b).halted .invalidMode)) ∧
    (mode.toNat < 4 → 8 ≤ tier.toNat →
      exec (.spiBegin bus tier ord mode) s = .next ((s.holdingSpi b).halted .invalidTier)) ∧
    (mode.toNat < 4 → b = .b1 → tier = 7 →
      exec (.spiBegin bus tier ord mode) s = .next ((s.holdingSpi b).halted .unreachableTier))) ∧
  (∀ (s : State) (bus : BitVec 4) (tier : BitVec 8) (b : BusId), RunsAt s .start → spiBusOf s.plat bus = some b →
    (8 ≤ tier.toNat → exec (.spiBaudCalc bus tier) s = .next (s.halted .invalidTier)) ∧
    (b = .b1 → tier = 7 → exec (.spiBaudCalc bus tier) s = .next (s.halted .unreachableTier))) ∧
  ∀ (s : State) (bus : BitVec 4) (flags : BitVec 4) (b : BusId), RunsAt s .start → i2cBusOf s.plat bus = some b →
    (s.i2cAt b).inflight = none → flags.getLsbD 2 = true → b ≠ .b1 →
    exec (.i2cMasterEnable bus flags) s = .next ((s.holdingI2c b).halted .invalidFlags)

/-! ## The calculators -/

/-- The table of SpiBaud: BR code and divider for every tier on both clock domains, and the two errors; SPI1 is on the
fast domain, SPI2 and SPI3 on the slow one (R103). -/
def Obligations.SpiBaudTable : Prop :=
  ((List.range 8).map fun k =>
      (spiBaud (Config.spiDomain .b2) (BitVec.ofNat 8 k)).map fun br => (br.toNat, 2 ^ (br.toNat + 1))) =
    [.ok (0, 2), .ok (1, 4), .ok (2, 8), .ok (3, 16), .ok (4, 32), .ok (5, 64), .ok (6, 128), .ok (7, 256)] ∧
  ((List.range 8).map fun k =>
      (spiBaud (Config.spiDomain .b1) (BitVec.ofNat 8 k)).map fun br => (br.toNat, 2 ^ (br.toNat + 1))) =
    [.ok (1, 4), .ok (2, 8), .ok (3, 16), .ok (4, 32), .ok (5, 64), .ok (6, 128), .ok (7, 256),
      .error .unreachableTier] ∧
  Config.spiDomain .b3 = Config.spiDomain .b2 ∧
  ∀ (d : Domain) (tier : BitVec 8), 8 ≤ tier.toNat → spiBaud d tier = .error .invalidTier

/-- The SPI clock that a tier's BR code gives is exactly 18 MHz / 2^tier, on every bus (R105). -/
def Obligations.SpiClockIsTheNominalOne : Prop :=
  ∀ (b : BusId) (tier : BitVec 8) (br : BitVec 3), spiBaud (Config.spiDomain b) tier = .ok br →
    spiClockHz (Config.pclkHz (Config.spiDomain b)) br * 2 ^ tier.toNat = 18000000

/-- The table of I2cTiming at 36 MHz: standard mode (DUTY alone ignored, REMAP and BUS_RESET not entering), fast mode with
both duties, and the one value that rounding down would change (R109). -/
def Obligations.I2cTimingTable : Prop :=
  (∀ (b : BusId) (flags : BitVec 4), i2cTiming b flags = .ok
    (if flags.getLsbD 0 then
      if flags.getLsbD 1 then { freq := 36, ccrReg := 0xC004, trise := 11 }
      else { freq := 36, ccrReg := 0x801E, trise := 11 }
    else { freq := 36, ccrReg := 0x00B4, trise := 37 })) ∧
  i2cTimingAt 36000000 .floor 0b0011 = .ok { freq := 36, ccrReg := 0xC003, trise := 11 }

/-- SPI.BAUD_CALC returns the BR code of its TIER and I2C.TIMING_CALC the packed timing of its FLAGS; each writes nothing
but RES, also while another command holds the bus (R104, R108, R109, R110). -/
def Obligations.CalculatorsReturnTheirValue : Prop :=
  (∀ (s : State) (bus : BitVec 4) (tier : BitVec 8) (b : BusId) (br : BitVec 3),
    RunsAt s .start → spiBusOf s.plat bus = some b → spiBaud (Config.spiDomain b) tier = .ok br →
    ∃ u, exec (.spiBaudCalc bus tier) s = .next u ∧
      runExec (.spiBaudCalc bus tier) 1 u = .next (s.completedWith (br.setWidth 32))) ∧
  ∀ (s : State) (bus flags : BitVec 4) (b : BusId), RunsAt s .start → i2cBusOf s.plat bus = some b →
    ∃ u, exec (.i2cTimingCalc bus flags) s = .next u ∧
      runExec (.i2cTimingCalc bus flags) 1 u = .next (s.completedWith
        (if flags.getLsbD 0 then if flags.getLsbD 1 then 0x240BC004 else 0x240B801E else 0x242500B4))

/-! ## SPI configuration -/

/-- SPI.BEGIN, uninterrupted, on an instance that no frame or unsent byte keeps busy: CR1 is the master configuration with
SPE set, the pins are the master's, one pin record is appended, and nothing else changes but the command's end
(R113, R115, R118, R119). -/
def Obligations.SpiBeginConfiguresTheMaster : Prop :=
  ∀ (s : State) (bus : BitVec 4) (tier : BitVec 8) (ord : BitVec 1) (mode : BitVec 4) (b : BusId) (br : BitVec 3),
    RunsAt s .start → spiBusOf s.plat bus = some b → (s.spiAt b).inflight = none → mode.toNat < 4 →
    spiBaud (Config.spiDomain b) tier = .ok br →
    ((s.spiAt b).spe = true → (s.spiAt b).shActive = false ∧ (s.spiAt b).txe = true) →
    ∃ u, exec (.spiBegin bus tier ord mode) s = .next u ∧
      runExec (.spiBegin bus tier ord mode) 4 u =
        .next ((s.setSpi b { s.spiAt b with
            cr1 := setBit (masterCr1 ord (modeBits mode) br) spiSPE
            pins := .spiMaster }).emit (.pin (.spi b) .spiMaster)).completed

/-- CR1 after SPI.BEGIN at TIER 4, uninterrupted, on an instance that no frame or unsent byte keeps busy: the table of R120
on bus 1, and 0x08 less on bus 2. -/
def Obligations.BeginTableOfCr1 : Prop :=
  ∀ (s : State) (bus : BitVec 4) (ord : BitVec 1) (mode : BitVec 4) (b : BusId),
    RunsAt s .start → spiBusOf s.plat bus = some b → b ≠ .b3 → (s.spiAt b).inflight = none → mode.toNat < 4 →
    ((s.spiAt b).spe = true → (s.spiAt b).shActive = false ∧ (s.spiAt b).txe = true) →
    ∃ u t, exec (.spiBegin bus 4 ord mode) s = .next u ∧ runExec (.spiBegin bus 4 ord mode) 4 u = .next t ∧
      (t.spiAt b).cr1 = (if ord = 1 then 0x036C else 0x03EC) + mode.setWidth 32 - (if b = .b1 then 0 else 0x08)

/-- SPI.BEGIN_SLAVE, uninterrupted: CR1 is the slave configuration with SPE set and the pins are the slave's
(R114, R115, R121). -/
def Obligations.SpiBeginSlaveConfiguresTheSlave : Prop :=
  ∀ (s : State) (bus : BitVec 4) (ord : BitVec 1) (mode : BitVec 4) (b : BusId),
    RunsAt s .start → spiBusOf s.plat bus = some b → (s.spiAt b).inflight = none → mode.toNat < 4 →
    ((s.spiAt b).spe = true → (s.spiAt b).shActive = false ∧ (s.spiAt b).txe = true) →
    ∃ u, exec (.spiBeginSlave bus ord mode) s = .next u ∧
      runExec (.spiBeginSlave bus ord mode) 4 u =
        .next ((s.setSpi b { s.spiAt b with
            cr1 := (if ord = 1 then 0x40 else 0xC0) + mode.setWidth 32
            pins := .spiSlave }).emit (.pin (.spi b) .spiSlave)).completed

/-- Clearing SPE with a frame in flight or a byte waiting to be sent is the fatal halt DisableWhileBusy, before the write
takes effect: at the first micro-step of SPI.BEGIN and SPI.BEGIN_SLAVE, and at the disable of SPI.END (R224, R241). -/
def Obligations.DisableWhileBusyHalts : Prop :=
  ∀ (s : State) (bus : BitVec 4) (b : BusId), spiBusOf s.plat bus = some b → (s.spiAt b).spe = true →
    ((s.spiAt b).shActive = true ∨ (s.spiAt b).txe = false) →
    (∀ (tier : BitVec 8) (ord : BitVec 1) (mode : BitVec 4) (br : BitVec 3), RunsAt s .start →
      (s.spiAt b).inflight = none → mode.toNat < 4 → spiBaud (Config.spiDomain b) tier = .ok br →
      exec (.spiBegin bus tier ord mode) s = .next ((s.holdingSpi b).halted .disableWhileBusy) ∧
      exec (.spiBeginSlave bus ord mode) s = .next ((s.holdingSpi b).halted .disableWhileBusy)) ∧
    (RunsAt s (.ending .disable) → exec (.spiEnd bus) s = .next (s.halted .disableWhileBusy))

/-- SPI.END on a disabled instance performs its CR1 read and returns, and changes nothing (R125). -/
def Obligations.SpiEndOnDisabledIsANoOp : Prop :=
  ∀ (s : State) (bus : BitVec 4) (b : BusId), RunsAt s .start → spiBusOf s.plat bus = some b →
    (s.spiAt b).inflight = none → (s.spiAt b).spe = false →
    ∃ u, exec (.spiEnd bus) s = .next u ∧ runExec (.spiEnd bus) 1 u = .next s.completed

/-- SPI.END, uninterrupted, on an enabled instance with nothing to send and nothing in flight: with the receive buffer
empty, one drain read of SR, which clears OVR only if a DR read came before (`armedDR`), and disarms; with a byte unread, the
byte is read and discarded, RXNE is cleared, and the next SR read clears OVR. SPE alone of CR1 changes, and the pins stay
(R72, R124). -/
def Obligations.SpiEndDrainsAndDisables : Prop :=
  ∀ (s : State) (bus : BitVec 4) (b : BusId), RunsAt s .start → spiBusOf s.plat bus = some b →
    (s.spiAt b).inflight = none → (s.spiAt b).spe = true → (s.spiAt b).txe = true → (s.spiAt b).shActive = false →
    ((s.spiAt b).rxne = false →
      ∃ u, exec (.spiEnd bus) s = .next u ∧ runExec (.spiEnd bus) 5 u =
        .next (s.setSpi b { s.spiAt b with
          cr1 := clearBit (s.spiAt b).cr1 spiSPE &&& spiCr1Mask
          sr := if (s.spiAt b).armedDR && (s.spiAt b).ovr then clearBit (s.spiAt b).sr spiOVR else (s.spiAt b).sr
          armedDR := false }).completed) ∧
    ((s.spiAt b).rxne = true →
      ∃ u, exec (.spiEnd bus) s = .next u ∧ runExec (.spiEnd bus) 7 u =
        .next (s.setSpi b { s.spiAt b with
          cr1 := clearBit (s.spiAt b).cr1 spiSPE &&& spiCr1Mask
          sr := clearBit (clearBit (s.spiAt b).sr spiRXNE) spiOVR
          armedDR := false }).completed)

/-- The order of SPI.END is kept: drain-receive, then the wait for TXE, then the wait for not busy, then the disable; each
wait stays while its flag is not as wanted (R239, R124). -/
def Obligations.SpiEndKeepsItsOrder : Prop :=
  ∀ (s t : State) (bus : BitVec 4) (b : BusId) (p : EndPos), RunsAt s (.ending p) → spiBusOf s.plat bus = some b →
    exec (.spiEnd bus) s = .next t →
    t.me.pos = (match p with
      | .drain => if (s.spiAt b).rxne then .ending .discard else .ending .waitTxe
      | .discard => .ending .drain
      | .waitTxe => if (s.spiAt b).txe then .ending .waitBsy else .ending .waitTxe
      | .waitBsy => if (s.spiAt b).shActive then .ending .waitBsy else .ending .disable
      | .disable => if t.me.fault = none then .ret else .ending .disable)

/-! ## SPI data -/

/-- SPI.READ and SPI.WRITE of length 0 return at once with no access at all (R127, R130). -/
def Obligations.LengthZeroReturnsAtOnce : Prop :=
  ∀ (s : State) (bus : BitVec 4) (b : BusId), RunsAt s .start → spiBusOf s.plat bus = some b →
    (s.spiAt b).inflight = none → s.me.issued.arg1 = 0 →
    exec (.spiRead bus) s = .next s.completed ∧ exec (.spiWrite bus) s = .next s.completed

/-- SPI.READ at the wait for byte k with a byte received: SR is read (OVR cleared only if armed by a DR read), then DR (RXNE
cleared, armed again), then the byte is stored at `buf + k`, and no other byte of memory changes; the next byte's wait or the
return follows. A read of one received byte runs from issue to return (R72, R127). -/
def Obligations.SpiReadStoresTheByte : Prop :=
  ∀ (s : State) (bus : BitVec 4) (b : BusId) (sr : Word), spiBusOf s.plat bus = some b → (s.spiAt b).rxne = true →
    sr = (if (s.spiAt b).armedDR && (s.spiAt b).ovr then clearBit (s.spiAt b).sr spiOVR else (s.spiAt b).sr) →
    (∀ k, RunsAt s (.reading (.wait k)) → allows s.plat (s.me.issued.arg0.toNat + k) 1 = true →
      ∃ u, exec (.spiRead bus) s = .next u ∧ runExec (.spiRead bus) 2 u =
        .next (((s.setSpi b { s.spiAt b with
            sr := clearBit sr spiRXNE
            armedDR := true }).setMem
          (s.mem.write (s.me.issued.arg0.toNat + k) (s.spiAt b).rxbuf)).goto
            (if k + 1 < s.me.issued.arg1.toNat then .reading (.wait (k + 1)) else .ret))) ∧
    (RunsAt s .start → (s.spiAt b).inflight = none → s.me.issued.arg1 = 1 →
      allows s.plat s.me.issued.arg0.toNat 1 = true →
      ∃ u, exec (.spiRead bus) s = .next u ∧ runExec (.spiRead bus) 3 u =
        .next ((s.setSpi b { s.spiAt b with
            sr := clearBit sr spiRXNE
            armedDR := true }).setMem
          (s.mem.write s.me.issued.arg0.toNat (s.spiAt b).rxbuf)).completed)

/-- SPI.READ on a master with nothing received, nothing to send and nothing in flight waits for ever: no step of any agent,
of any number of contexts, ends the wait. The waiting context owns the instance, and no other context is inside a command on
it (R27, R128, R214, R222). -/
def Obligations.MasterReadWaitsForEver : Prop :=
  ∀ (s t : State) (c : Nat) (b : BusId) (k : Nat), ReadWaits s c b k → step s = .next t → ReadWaits t c b k

/-- SPI.WRITE at its status read: with TXE = 1 and a byte left, the byte at `buf + txed + t` goes into the transmit buffer;
otherwise the hand-off call returns, and another follows unless all bytes are handed off. A write of one byte with the
transmit buffer empty runs from issue to return, also on a disabled instance. Each status read clears OVR only if armed by
a DR read, and disarms (R72, R129, R130, R136). -/
def Obligations.SpiWriteHandsOffTheByte : Prop :=
  ∀ (s : State) (bus : BitVec 4) (b : BusId) (sr : Word), spiBusOf s.plat bus = some b →
    sr = (if (s.spiAt b).armedDR && (s.spiAt b).ovr then clearBit (s.spiAt b).sr spiOVR else (s.spiAt b).sr) →
    (∀ txed t, RunsAt s (.writing (.status txed t)) → (s.spiAt b).txe = true → t < s.me.issued.arg1.toNat - txed →
      allows s.plat (s.me.issued.arg0.toNat + txed + t) 1 = true →
      ∃ u, exec (.spiWrite bus) s = .next u ∧ runExec (.spiWrite bus) 2 u =
        .next ((s.setSpi b { s.spiAt b with
          txbuf := s.mem.read (s.me.issued.arg0.toNat + txed + t)
          sr := clearBit sr spiTXE
          armedDR := false }).goto (.writing (.status txed (t + 1))))) ∧
    (∀ txed t, RunsAt s (.writing (.status txed t)) →
      ((s.spiAt b).txe = false ∨ s.me.issued.arg1.toNat - txed ≤ t) →
      exec (.spiWrite bus) s = .next ((s.setSpi b { s.spiAt b with
        sr := sr
        armedDR := false }).goto (if txed + t < s.me.issued.arg1.toNat then .writing (.status (txed + t) 0) else .ret))) ∧
    (RunsAt s .start → (s.spiAt b).inflight = none → s.me.issued.arg1 = 1 → (s.spiAt b).txe = true →
      allows s.plat s.me.issued.arg0.toNat 1 = true →
      ∃ u, exec (.spiWrite bus) s = .next u ∧ runExec (.spiWrite bus) 4 u =
        .next (s.setSpi b { s.spiAt b with
          txbuf := s.mem.read s.me.issued.arg0.toNat
          sr := clearBit sr spiTXE
          armedDR := false }).completed)

/-- SPI.TRANSFER does not drain: with an older byte unread, that byte is what it returns (R72, R134, R135). -/
def Obligations.SpiTransferReturnsTheStaleByte : Prop :=
  ∀ (s : State) (bus : BitVec 4) (byte : BitVec 8) (b : BusId) (sr : Word), RunsAt s .start → spiBusOf s.plat bus = some b →
    sr = (if (s.spiAt b).armedDR && (s.spiAt b).ovr then clearBit (s.spiAt b).sr spiOVR else (s.spiAt b).sr) →
    (s.spiAt b).inflight = none → (s.spiAt b).txe = true → (s.spiAt b).rxne = true →
    ∃ u, exec (.spiTransfer bus byte) s = .next u ∧ runExec (.spiTransfer bus byte) 6 u =
      .next ((s.setSpi b { s.spiAt b with
        txbuf := byte
        sr := clearBit (clearBit sr spiTXE) spiRXNE
        armedDR := true }).completedWith ((s.spiAt b).rxbuf.setWidth 32))

/-- SPI.TRANSFER on an enabled, idle master with an empty receive buffer, with the frame of the byte it writes: the byte is
clocked out, the byte clocked in is returned, and one frame is recorded (R72, R133, R134, R184, R186). -/
def Obligations.SpiTransferExchangesAByte : Prop :=
  ∀ (s : State) (bus : BitVec 4) (byte rx : BitVec 8) (b : BusId) (c : Nat) (rest : List Turn) (sr : Word),
    sr = (if (s.spiAt b).armedDR && (s.spiAt b).ovr then clearBit (s.spiAt b).sr spiOVR else (s.spiAt b).sr) →
    s.env = [.ofCtx c, .ofCtx c, .ofAgent (.spiStart b), .ofAgent (.spiComplete b) rx, .ofCtx c, .ofCtx c, .ofCtx c,
      .ofCtx c, .ofCtx c] ++ rest →
    RunsAt s .start → decode s.me.issued.cmd = .ok (.spiTransfer bus byte) → spiBusOf s.plat bus = some b →
    (s.spiAt b).inflight = none → (s.spiAt b).spe = true → (s.spiAt b).mstr = true → (s.spiAt b).txe = true →
    (s.spiAt b).shActive = false → (s.spiAt b).rxne = false →
    ∃ u, exec (.spiTransfer bus byte) s = .next u ∧ steps 8 u.advance =
      .next { s with
        ctxs := s.ctxs.set c { s.ctxAt c with
          res := rx.setWidth 32, resWritten := true, pos := .ready, cc := (s.ctxAt c).cc + 1 }
        spi := s.spi.put b { s.spiAt b with
          txbuf := byte, rxbuf := rx, shTx := byte, armedDR := true
          sr := sr }
        events := s.events ++ [.spiFrame b .master byte rx (s.spiAt b).lsbfirst (s.spiAt b).mode]
        env := rest
        seq := s.seq + 9 }

/-! ## The SPI peripheral -/

/-- A frame starts only by the peripheral's own step, on an enabled instance with no frame in the shifter, and in master
mode only with a byte waiting: the master's start takes that byte; the slave's takes the waiting byte or, on underrun, the
byte the environment draws (R184, R187). -/
def Obligations.FrameStartTakesTheByte : Prop :=
  ∀ (s : State) (b : BusId),
    (s.turn.agent = .spiStart b → spiValid s.plat b = true → (s.spiAt b).spe = true → (s.spiAt b).shActive = false →
      ((s.spiAt b).mstr = true → (s.spiAt b).txe = false) →
      step s = .next (s.setSpi b { s.spiAt b with
        shTx := if (s.spiAt b).txe then s.turn.byte else (s.spiAt b).txbuf
        sr := setBit (setBit (s.spiAt b).sr spiTXE) spiBSY }).advance) ∧
    ∀ t, step s = .next t → (s.spiAt b).shActive = false → (t.spiAt b).shActive = true →
      s.turn.agent = .spiStart b ∧ (s.spiAt b).spe = true ∧ ((s.spiAt b).mstr = true → (s.spiAt b).txe = false)

/-- A frame's completion: the record; the received byte kept, or lost with OVR where an older byte is unread; and then the
next frame of a master with a byte waiting, or an idle shifter (R186). -/
def Obligations.FrameCompletionDeliversTheByte : Prop :=
  ∀ (s : State) (b : BusId), s.turn.agent = .spiComplete b → spiValid s.plat b = true → (s.spiAt b).spe = true →
    (s.spiAt b).shActive = true →
    step s = .next ((s.setSpi b { s.spiAt b with
      rxbuf := if (s.spiAt b).rxne then (s.spiAt b).rxbuf else s.turn.byte
      shTx := if (s.spiAt b).mstr && !(s.spiAt b).txe then (s.spiAt b).txbuf else (s.spiAt b).shTx
      sr :=
        let received := setBit (s.spiAt b).sr (if (s.spiAt b).rxne then spiOVR else spiRXNE)
        if (s.spiAt b).mstr && !(s.spiAt b).txe then setBit received spiTXE else clearBit received spiBSY }).emit
      (.spiFrame b (if (s.spiAt b).mstr then .master else .slave) (s.spiAt b).shTx s.turn.byte (s.spiAt b).lsbfirst
        (s.spiAt b).mode)).advance

/-! ## I2C device commands -/

/-- I2C.INIT, uninterrupted: device state Disabled, error flags 0, every register and the hidden state of R53 at reset;
pins, latches and the cursor stay (R139, R141). No record is appended (R234: `events` is left alone), where R10 says that
each collaborator call records an event: the model's choice (log entry 24). -/
def Obligations.I2cInitResetsTheInstance : Prop :=
  ∀ (s : State) (bus : BitVec 4) (b : BusId), RunsAt s .start → i2cBusOf s.plat bus = some b →
    (s.i2cAt b).inflight = none →
    ∃ u, exec (.i2cInit bus) s = .next u ∧ runExec (.i2cInit bus) 3 u =
      .next (s.setI2c b { I2cBus.reset b with
        pins := (s.i2cAt b).pins
        gpioScl := (s.i2cAt b).gpioScl
        gpioSda := (s.i2cAt b).gpioSda
        dev := { state := .disabled, errorFlags := 0, cursor := (s.i2cAt b).dev.cursor } }).completed

/-- I2C.MASTER_ENABLE without BUS_RESET, uninterrupted: the timing registers of FLAGS, the pins with their mapping, device
state Idle and PE set; what the PE clear did to an enabled peripheral stands (R143, R144). -/
def Obligations.MasterEnableProgramsTheTiming : Prop :=
  ∀ (s : State) (bus flags : BitVec 4) (b : BusId) (t : Timing), RunsAt s .start → i2cBusOf s.plat bus = some b →
    (s.i2cAt b).inflight = none → flags.getLsbD 3 = false → (flags.getLsbD 2 = true → b = .b1) →
    i2cTiming b flags = .ok t →
    ∃ u, exec (.i2cMasterEnable bus flags) s = .next u ∧ runExec (.i2cMasterEnable bus flags) 7 u =
      .next ((s.setI2c b { (s.i2cAt b).writeCr1 (clearBit (s.i2cAt b).cr1 i2cPE) with
        cr1 := setBit ((s.i2cAt b).writeCr1 (clearBit (s.i2cAt b).cr1 i2cPE)).cr1 i2cPE
        cr2 := BitVec.ofNat 32 t.freq
        ccr := t.ccrReg
        trise := BitVec.ofNat 32 t.trise
        pins := .i2cAF (flags.getLsbD 2)
        dev := { (s.i2cAt b).dev with state := .idle } }).emit
          (.pin (.i2c b) (.i2cAF (flags.getLsbD 2)))).completed

/-- I2C.MASTER_ENABLE with BUS_RESET, with SDA read high: the bus-reset sequence runs between the timing registers and the
pins (R143, R148). While SDA reads low it waits for SCL, for ever if SCL stays low; when SCL reads high, one clock pulse with
its delays follows and SDA is read again; once SDA reads high, the rest of the sequence and of the command follows (R149). That
the reads of the lines append no record is the model's choice (log entry 24). -/
def Obligations.MasterEnableWithBusReset : Prop :=
  ∀ (s : State) (bus flags : BitVec 4) (b : BusId) (t : Timing), i2cBusOf s.plat bus = some b →
    (flags.getLsbD 2 = true → b = .b1) → i2cTiming b flags = .ok t →
    (RunsAt s .start → (s.i2cAt b).inflight = none → flags.getLsbD 3 = true → s.turn.bit = true →
    ∃ u, exec (.i2cMasterEnable bus flags) s = .next u ∧ runExec (.i2cMasterEnable bus flags) 18 u =
      .next ((s.setI2c b { (s.i2cAt b).writeCr1 (clearBit (s.i2cAt b).cr1 i2cPE) with
        cr1 := setBit ((s.i2cAt b).writeCr1 (clearBit (s.i2cAt b).cr1 i2cPE)).cr1 i2cPE
        cr2 := BitVec.ofNat 32 t.freq
        ccr := t.ccrReg
        trise := BitVec.ofNat 32 t.trise
        pins := .i2cAF (flags.getLsbD 2)
        gpioScl := true
        gpioSda := true
        dev := { (s.i2cAt b).dev with state := .idle } }).emitAll
          [.gpio b .scl true, .gpio b .sda true, .pin (.i2c b) .gpioOD, .gpio b .sda false, .delay 10,
            .gpio b .scl false, .delay 10, .gpio b .scl true, .delay 10, .gpio b .sda true,
            .pin (.i2c b) (.i2cAF (flags.getLsbD 2))]).completed) ∧
    (RunsAt s (.busReset .readSda) → s.turn.bit = false →
      exec (.i2cMasterEnable bus flags) s = .next (s.goto (.busReset .readScl))) ∧
    (RunsAt s (.busReset .readScl) → s.turn.bit = false → exec (.i2cMasterEnable bus flags) s = .next s) ∧
    (RunsAt s (.busReset .readScl) → s.turn.bit = true → (s.i2cAt b).gpioScl = true →
      ∃ u, exec (.i2cMasterEnable bus flags) s = .next u ∧ runExec (.i2cMasterEnable bus flags) 5 u =
        .next ((s.emitAll [.delay 10, .gpio b .scl false, .delay 10, .gpio b .scl true, .delay 10]).goto
          (.busReset .readSda))) ∧
    (RunsAt s (.busReset .readSda) → s.turn.bit = true → (s.i2cAt b).gpioSda = true →
      ∃ u, exec (.i2cMasterEnable bus flags) s = .next u ∧ runExec (.i2cMasterEnable bus flags) 11 u =
        .next ((s.setI2c b { s.i2cAt b with
          cr1 := setBit (s.i2cAt b).cr1 i2cPE &&& i2cCr1Mask
          pins := .i2cAF (flags.getLsbD 2)
          gpioScl := true
          gpioSda := true
          inflight := none
          dev := { (s.i2cAt b).dev with state := .idle } }).emitAll
            [.gpio b .sda false, .delay 10, .gpio b .scl false, .delay 10, .gpio b .scl true, .delay 10,
              .gpio b .sda true, .pin (.i2c b) (.i2cAF (flags.getLsbD 2))]).completed)

/-- I2C.BUS_RESET with SDA read high: both lines released, the pins in GPIO mode and left there, one start and one stop
condition; no register and no device state is written. While SDA reads low it waits for SCL, for ever if SCL stays low;
when SCL reads high, one clock pulse with its delays follows and SDA is read again; once SDA reads high, the rest of the
sequence follows (R148, R149, V56). That the reads of the lines append no record is the model's choice (log entry 24). -/
def Obligations.BusResetSequence : Prop :=
  ∀ (s : State) (bus : BitVec 4) (b : BusId), i2cBusOf s.plat bus = some b →
    (RunsAt s .start → (s.i2cAt b).inflight = none → s.turn.bit = true →
      ∃ u, exec (.i2cBusReset bus) s = .next u ∧ runExec (.i2cBusReset bus) 11 u =
        .next ((s.setI2c b { s.i2cAt b with pins := .gpioOD, gpioScl := true, gpioSda := true }).emitAll
          [.gpio b .scl true, .gpio b .sda true, .pin (.i2c b) .gpioOD, .gpio b .sda false, .delay 10,
            .gpio b .scl false, .delay 10, .gpio b .scl true, .delay 10, .gpio b .sda true]).completed) ∧
    (RunsAt s (.busReset .readSda) → s.turn.bit = false →
      exec (.i2cBusReset bus) s = .next (s.goto (.busReset .readScl))) ∧
    (RunsAt s (.busReset .readScl) → s.turn.bit = false → exec (.i2cBusReset bus) s = .next s) ∧
    (RunsAt s (.busReset .readScl) → s.turn.bit = true → (s.i2cAt b).gpioScl = true →
      ∃ u, exec (.i2cBusReset bus) s = .next u ∧ runExec (.i2cBusReset bus) 5 u =
        .next ((s.emitAll [.delay 10, .gpio b .scl false, .delay 10, .gpio b .scl true, .delay 10]).goto
          (.busReset .readSda))) ∧
    (RunsAt s (.busReset .readSda) → s.turn.bit = true → (s.i2cAt b).gpioSda = true →
      ∃ u, exec (.i2cBusReset bus) s = .next u ∧ runExec (.i2cBusReset bus) 8 u =
        .next ((s.setI2c b { s.i2cAt b with gpioScl := true, gpioSda := true, inflight := none }).emitAll
          [.gpio b .sda false, .delay 10, .gpio b .scl false, .delay 10, .gpio b .scl true, .delay 10,
            .gpio b .sda true]).completed)

/-! ## I2C.MASTER_XFER -/

/-- The entry guard admits Idle, TransferDone and Error: in one micro-step the instance is claimed and the device Busy; the
checks of ARG0 and ARG1 decide between the first descriptor and the halt BadXferArgs, which leaves the device Busy
(R154, R155). -/
def Obligations.XferGuardClaimsTheInstance : Prop :=
  ∀ (s : State) (bus : BitVec 4) (b : BusId), RunsAt s .start → i2cBusOf s.plat bus = some b →
    (s.i2cAt b).inflight = none →
    ((s.i2cAt b).dev.state = .idle ∨ (s.i2cAt b).dev.state = .transferDone ∨ (s.i2cAt b).dev.state = .error) →
    (s.me.issued.arg1.extractLsb' 16 16 = 0 ∧ s.me.issued.arg1.extractLsb' 0 16 ≠ 0 ∧
        s.me.issued.arg0.toNat % 4 = 0 →
      exec (.i2cMasterXfer bus) s = .next ((s.setI2c b { s.i2cAt b with
        inflight := some s.cur, dev := { (s.i2cAt b).dev with state := .busy } }).goto (.xferEntry (.checkAddr 0)))) ∧
    (¬(s.me.issued.arg1.extractLsb' 16 16 = 0 ∧ s.me.issued.arg1.extractLsb' 0 16 ≠ 0 ∧
        s.me.issued.arg0.toNat % 4 = 0) →
      ∃ u, exec (.i2cMasterXfer bus) s = .next u ∧ runExec (.i2cMasterXfer bus) 1 u =
        .next (((s.setI2c b { s.i2cAt b with
          inflight := some s.cur, dev := { (s.i2cAt b).dev with state := .busy } }).goto (.xferEntry .bad)).halted
            .badXferArgs))

/-- Validation reads the address, the flags and the length of descriptor i and nothing else; where the four checks pass, the
next descriptor or the entry follows, and where one fails, the halt BadXferArgs (R65, R155). -/
def Obligations.XferValidatesADescriptor : Prop :=
  ∀ (s : State) (bus : BitVec 4) (b : BusId) (i d : Nat) (addr flags len : Half) (bad : Prop),
    RunsAt s (.xferEntry (.checkAddr i)) → i2cBusOf s.plat bus = some b → d = s.me.issued.arg0.toNat + 12 * i →
    allows s.plat d 2 = true → allows s.plat (d + 2) 2 = true → allows s.plat (d + 4) 2 = true →
    addr = s.mem.read16 d → flags = s.mem.read16 (d + 2) → len = s.mem.read16 (d + 4) →
    (bad ↔ flags.extractLsb' 2 14 ≠ 0 ∨ (flags.getLsbD 1 = false ∧ 0x80 ≤ addr.toNat) ∨
      (flags.getLsbD 1 = true ∧ 0x400 ≤ addr.toNat) ∨ (flags.getLsbD 0 = true ∧ len = 0)) →
    (¬bad → ∃ u, exec (.i2cMasterXfer bus) s = .next u ∧ runExec (.i2cMasterXfer bus) 2 u = .next (s.goto
      (if i + 1 < (s.me.issued.arg1.extractLsb' 0 16).toNat then .xferEntry (.checkAddr (i + 1))
        else .xferEntry .msgs))) ∧
    (bad → ∃ u, exec (.i2cMasterXfer bus) s = .next u ∧ runExec (.i2cMasterXfer bus) 3 u =
      .next ((s.goto (.xferEntry .bad)).halted .badXferArgs))

/-- The entry: the cursor takes the operands, the error flags are cleared, the SR1 write clears BERR, ARLO, AF, OVR and
TIMEOUT and no other bit, and only then is the start time taken: the time source is read, and the count read, whatever it
has become since, is the start time (R12, R156). -/
def Obligations.XferEntrySetsTheCursor : Prop :=
  (∀ (s : State) (bus : BitVec 4) (b : BusId), RunsAt s (.xferEntry .msgs) → i2cBusOf s.plat bus = some b →
    ∃ u, exec (.i2cMasterXfer bus) s = .next u ∧ runExec (.i2cMasterXfer bus) 6 u =
      .next ((s.setI2c b { s.i2cAt b with
        sr1 := (s.i2cAt b).sr1 &&& ~~~0x00004F00#32
        dev := { (s.i2cAt b).dev with
          errorFlags := 0
          cursor := {
            msgs := s.me.issued.arg0
            count := s.me.issued.arg1.extractLsb' 0 16
            idx := (s.i2cAt b).dev.cursor.idx
            t0 := s.now
            timeout := s.me.issued.arg2 } } }).goto (.xferLoad (.index 0)))) ∧
  ∀ (s : State) (bus : BitVec 4) (b : BusId), i2cBusOf s.plat bus = some b →
    (RunsAt s (.xferEntry .now) → exec (.i2cMasterXfer bus) s = .next (s.goto (.xferEntry (.t0 s.now)))) ∧
    ∀ v, RunsAt s (.xferEntry (.t0 v)) → exec (.i2cMasterXfer bus) s =
      .next ((s.setI2c b { s.i2cAt b with
        dev := { (s.i2cAt b).dev with cursor := { (s.i2cAt b).dev.cursor with t0 := v } } }).goto (.xferLoad (.index 0)))

/-- The message load reads the descriptor again. Where the four checks pass, it writes `xferred` = 0 and goes to the start of
the message with the values read; a descriptor that has become invalid is the halt BadXferArgs, with memory and the bus left
as they are (R157). -/
def Obligations.XferLoadsTheMessage : Prop :=
  ∀ (s : State) (bus : BitVec 4) (b : BusId) (i d : Nat) (addr flags len : Half) (bad : Prop) (t : State),
    RunsAt s (.xferLoad (.index i)) → i2cBusOf s.plat bus = some b → i < 65536 →
    d = (s.i2cAt b).dev.cursor.msgs.toNat + 12 * i →
    allows s.plat d 2 = true → allows s.plat (d + 2) 2 = true → allows s.plat (d + 4) 2 = true →
    allows s.plat (d + 8) 4 = true →
    addr = s.mem.read16 d → flags = s.mem.read16 (d + 2) → len = s.mem.read16 (d + 4) →
    (bad ↔ flags.extractLsb' 2 14 ≠ 0 ∨ (flags.getLsbD 1 = false ∧ 0x80 ≤ addr.toNat) ∨
      (flags.getLsbD 1 = true ∧ 0x400 ≤ addr.toNat) ∨ (flags.getLsbD 0 = true ∧ len = 0)) →
    t = s.setI2c b { s.i2cAt b with
      dev := { (s.i2cAt b).dev with cursor := { (s.i2cAt b).dev.cursor with idx := BitVec.ofNat 16 i } } } →
    (¬bad → allows s.plat (d + 6) 2 = true →
      ∃ u, exec (.i2cMasterXfer bus) s = .next u ∧ runExec (.i2cMasterXfer bus) 5 u =
        .next ((t.setMem (s.mem.write16 (d + 6) 0)).goto
          (.xfer { addr := addr, rd := flags.getLsbD 0, ten := flags.getLsbD 1, len := len.toNat,
                   data := s.mem.read32 (d + 8) } (.wait .pendStart .sr1)))) ∧
    (bad → ∃ u, exec (.i2cMasterXfer bus) s = .next u ∧ runExec (.i2cMasterXfer bus) 5 u =
      .next ((t.goto (.xferEntry .bad)).halted .badXferArgs))

/-- The start of a message and its address: ACK of a read message set for two bytes or more and cleared for one, START set,
and when SB has been seen the 7-bit address with the direction, or the 10-bit write header, written to DR. After ADD10 the low
address byte is written; a 10-bit read then reads SR2, sets START again, and when SB has been seen writes the read header.
The SR2 read clears ADDR if an SR1 read came before, and then moves phase Addressed to Tx or Rx by the direction; the data, or
with length 0 the next message or the stop waits, follow. The byte formats are given as numbers
(R73, R158, R159, R163, R164, R196). -/
def Obligations.XferStartsTheMessage : Prop :=
  (∀ m : Msg,
    m.addr7Byte.toNat = 2 * (m.addr.toNat % 128) + (if m.rd then 1 else 0) ∧
    (m.headerByte false).toNat = 0xF0 + 2 * (m.addr.toNat / 256 % 4) ∧
    (m.headerByte true).toNat = 0xF1 + 2 * (m.addr.toNat / 256 % 4) ∧
    m.lowByte.toNat = m.addr.toNat % 256) ∧
  ∀ (s : State) (bus : BitVec 4) (b : BusId) (m : Msg) (x : I2cBus), i2cBusOf s.plat bus = some b → x = s.i2cAt b →
    (RunsAt s (.xfer m .ack) → exec (.i2cMasterXfer bus) s =
      .next ((s.setI2c b { x with
        cr1 := (if 2 ≤ m.len then setBit x.cr1 i2cACK else clearBit x.cr1 i2cACK) &&& i2cCr1Mask }).goto
          (.xfer m .start))) ∧
    (RunsAt s (.xfer m .start) → exec (.i2cMasterXfer bus) s =
      .next ((s.setI2c b { x with cr1 := setBit x.cr1 i2cSTART &&& i2cCr1Mask }).goto (.xfer m (.wait .sb .sr1)))) ∧
    (RunsAt s (.xfer m (.wait .sb .sr1)) → x.sr1 &&& 0x00004F00 = 0 → testBit x.sr1 i2cSB = true →
      ∃ u, exec (.i2cMasterXfer bus) s = .next u ∧ runExec (.i2cMasterXfer bus) 1 u =
        .next ((s.setI2c b { x with
          dr := (if m.ten then m.headerByte false else m.addr7Byte).setWidth 32
          sr1 := clearBit (clearBit (clearBit (clearBit x.sr1 i2cSB) i2cADD10) i2cBTF) i2cTXE
          txPending := true
          armed1 := false }).goto (.xfer m (.wait (if m.ten then .add10 else .addr) .sr1)))) ∧
    (RunsAt s (.xfer m (.wait .add10 .sr1)) → x.sr1 &&& 0x00004F00 = 0 → testBit x.sr1 i2cADD10 = true →
      ∃ u, exec (.i2cMasterXfer bus) s = .next u ∧ runExec (.i2cMasterXfer bus) 1 u =
        .next ((s.setI2c b { x with
          dr := (m.lowByte).setWidth 32
          sr1 := clearBit (clearBit (clearBit (clearBit x.sr1 i2cSB) i2cADD10) i2cBTF) i2cTXE
          txPending := true
          armed1 := false }).goto (.xfer m (.wait .addr .sr1)))) ∧
    (RunsAt s (.xfer m .clearMid) → exec (.i2cMasterXfer bus) s = .next ((s.setI2c b { x with
        sr1 := if x.armed1 && testBit x.sr1 i2cADDR then
            if x.phase = .addressed ∧ x.dir = .write then setBit (clearBit x.sr1 i2cADDR) i2cTXE
            else clearBit x.sr1 i2cADDR
          else x.sr1
        sr2 := if x.armed1 && testBit x.sr1 i2cADDR && x.phase == .addressed && x.dir == .read then
            clearBit x.sr2 i2cTRA else x.sr2
        phase := if x.armed1 && testBit x.sr1 i2cADDR && x.phase == .addressed then
            if x.dir = .write then .tx else .rx
          else x.phase
        armed1 := false }).goto (.xfer m .restart))) ∧
    (RunsAt s (.xfer m .restart) → exec (.i2cMasterXfer bus) s =
      .next ((s.setI2c b { x with cr1 := setBit x.cr1 i2cSTART &&& i2cCr1Mask }).goto (.xfer m (.wait .sbR .sr1)))) ∧
    (RunsAt s (.xfer m (.wait .sbR .sr1)) → x.sr1 &&& 0x00004F00 = 0 → testBit x.sr1 i2cSB = true →
      ∃ u, exec (.i2cMasterXfer bus) s = .next u ∧ runExec (.i2cMasterXfer bus) 1 u =
        .next ((s.setI2c b { x with
          dr := (m.headerByte true).setWidth 32
          sr1 := clearBit (clearBit (clearBit (clearBit x.sr1 i2cSB) i2cADD10) i2cBTF) i2cTXE
          txPending := true
          armed1 := false }).goto (.xfer m (.wait .addrR .sr1)))) ∧
    (RunsAt s (.xfer m .clearAddr) → exec (.i2cMasterXfer bus) s = .next ((s.setI2c b { x with
        sr1 := if x.armed1 && testBit x.sr1 i2cADDR then
            if x.phase = .addressed ∧ x.dir = .write then setBit (clearBit x.sr1 i2cADDR) i2cTXE
            else clearBit x.sr1 i2cADDR
          else x.sr1
        sr2 := if x.armed1 && testBit x.sr1 i2cADDR && x.phase == .addressed && x.dir == .read then
            clearBit x.sr2 i2cTRA else x.sr2
        phase := if x.armed1 && testBit x.sr1 i2cADDR && x.phase == .addressed then
            if x.dir = .write then .tx else .rx
          else x.phase
        armed1 := false }).goto
          (if m.len = 0 then
            if x.dev.cursor.idx.toNat + 1 < x.dev.cursor.count.toNat then
              .xferLoad (.index (x.dev.cursor.idx.toNat + 1))
            else .xfer m (.wait .pendStop .sr1)
          else .xfer m (if m.rd then .wait (.rxne 0) .sr1 else .txFetch 0))))

/-- One iteration of WaitI2C: the fault test on the SR1 read first, then the condition, then the time test, which compares
the elapsed ticks modulo 2^32 with the timeout. A satisfied wait leads where the pseudocode says: to the next access of the
message, after BTF to the next message without a stop or to the stop waits, and at the end to the success exit. The flag
that each wait point tests is given as a bit number of SR1, and none for the waits on CR1 (R49, R153, R158 to R166). -/
def Obligations.WaitIterationOrder : Prop :=
  ∀ (s : State) (bus : BitVec 4) (b : BusId) (m : Msg) (w : WaitPt) (bit : Option Nat) (after : Pos),
    i2cBusOf s.plat bus = some b → RunsAt s (.xfer m (.wait w .sr1)) →
    bit = (match w with
      | .pendStart | .pendStop | .pendDone => none
      | .sb | .sbR => some 0
      | .addr | .addrR => some 1
      | .btf => some 2
      | .add10 => some 3
      | .rxne _ => some 6
      | .txe _ => some 7) →
    after = (match w with
      | .pendStart => .xfer m (if m.rd then .ack else .start)
      | .sb => .xfer m (if m.ten then .header else .addr7)
      | .add10 => .xfer m .low
      | .addr => .xfer m (if m.ten && m.rd then .clearMid else .clearAddr)
      | .sbR => .xfer m .headerR
      | .addrR => .xfer m .clearAddr
      | .rxne k => .xfer m (if k + 2 = m.len then .ackOff k else .rxData k)
      | .txe k => .xfer m (.txFetch k)
      | .btf =>
        if (s.i2cAt b).dev.cursor.idx.toNat + 1 < (s.i2cAt b).dev.cursor.count.toNat then
          .xferLoad (.index ((s.i2cAt b).dev.cursor.idx.toNat + 1))
        else .xfer m (.wait .pendStop .sr1)
      | .pendStop => .xfer m .stop
      | .pendDone => .xfer m (.exitState .ok)) →
    ((s.i2cAt b).sr1 &&& 0x00004F00 ≠ 0 →
      exec (.i2cMasterXfer bus) s = .next ((s.setI2c b { s.i2cAt b with armed1 := true }).goto
        (.xfer m (.faultFlags (s.i2cAt b).sr1)))) ∧
    (∀ i, (s.i2cAt b).sr1 &&& 0x00004F00 = 0 → bit = some i → testBit (s.i2cAt b).sr1 i = true →
      exec (.i2cMasterXfer bus) s = .next ((s.setI2c b { s.i2cAt b with armed1 := true }).goto after)) ∧
    (∀ i, (s.i2cAt b).sr1 &&& 0x00004F00 = 0 → bit = some i → testBit (s.i2cAt b).sr1 i = false →
      ∃ u, exec (.i2cMasterXfer bus) s = .next u ∧ runExec (.i2cMasterXfer bus) 1 u =
        .next ((s.setI2c b { s.i2cAt b with armed1 := true }).goto (.xfer m
          (if (s.i2cAt b).dev.cursor.timeout.toNat < (s.now - (s.i2cAt b).dev.cursor.t0).toNat then .exitStop .timeout
            else .wait w .sr1)))) ∧
    ((s.i2cAt b).sr1 &&& 0x00004F00 = 0 → bit = none → (s.i2cAt b).cr1 &&& 0x00001300 = 0 →
      ∃ u, exec (.i2cMasterXfer bus) s = .next u ∧ runExec (.i2cMasterXfer bus) 1 u =
        .next ((s.setI2c b { s.i2cAt b with armed1 := true }).goto after)) ∧
    ((s.i2cAt b).sr1 &&& 0x00004F00 = 0 → bit = none → (s.i2cAt b).cr1 &&& 0x00001300 ≠ 0 →
      ∃ u, exec (.i2cMasterXfer bus) s = .next u ∧ runExec (.i2cMasterXfer bus) 2 u =
        .next ((s.setI2c b { s.i2cAt b with armed1 := true }).goto (.xfer m
          (if (s.i2cAt b).dev.cursor.timeout.toNat < (s.now - (s.i2cAt b).dev.cursor.t0).toNat then .exitStop .timeout
            else .wait w .sr1))))

/-- The protocol-fault exit: the error flags are the error bits seen, STOP is requested and not waited for, the device is
in Error, the instance is released, and RES is -1 (R169). -/
def Obligations.ProtocolFaultExit : Prop :=
  ∀ (s : State) (bus : BitVec 4) (b : BusId) (m : Msg) (v : Word), i2cBusOf s.plat bus = some b →
    RunsAt s (.xfer m (.faultFlags v)) →
    ∃ u, exec (.i2cMasterXfer bus) s = .next u ∧ runExec (.i2cMasterXfer bus) 5 u =
      .next ((s.setI2c b { s.i2cAt b with
        cr1 := setBit (s.i2cAt b).cr1 i2cSTOP &&& i2cCr1Mask
        inflight := none
        dev := { (s.i2cAt b).dev with
          state := .error, errorFlags := (v &&& 0x00004F00).setWidth 16 } }).completedWith 0xFFFFFFFF)

/-- The timeout exit: STOP is requested and not waited for, the device is in Error with its error flags as they were, the
instance is released, and RES is -2; the stop after the last message: STOP is set, and its wait follows; and the success
exit: TransferDone, released, RES 0 (R164, R170, R172). -/
def Obligations.TimeoutAndSuccessExits : Prop :=
  ∀ (s : State) (bus : BitVec 4) (b : BusId) (m : Msg), i2cBusOf s.plat bus = some b →
    (RunsAt s (.xfer m (.exitStop .timeout)) →
      ∃ u, exec (.i2cMasterXfer bus) s = .next u ∧ runExec (.i2cMasterXfer bus) 4 u =
        .next ((s.setI2c b { s.i2cAt b with
          cr1 := setBit (s.i2cAt b).cr1 i2cSTOP &&& i2cCr1Mask
          inflight := none
          dev := { (s.i2cAt b).dev with state := .error } }).completedWith 0xFFFFFFFE)) ∧
    (RunsAt s (.xfer m .stop) → exec (.i2cMasterXfer bus) s =
      .next ((s.setI2c b { s.i2cAt b with cr1 := setBit (s.i2cAt b).cr1 i2cSTOP &&& i2cCr1Mask }).goto
        (.xfer m (.wait .pendDone .sr1)))) ∧
    (RunsAt s (.xfer m (.exitState .ok)) →
      ∃ u, exec (.i2cMasterXfer bus) s = .next u ∧ runExec (.i2cMasterXfer bus) 3 u =
        .next ((s.setI2c b { s.i2cAt b with
          inflight := none
          dev := { (s.i2cAt b).dev with state := .transferDone } }).completedWith 0x00000000))

/-- Byte k of a read message: with RXNE seen, ACK is cleared before DR is read if this is the last byte but one; the byte
is stored at `data + k`, and then `xferred` is k + 1. Byte k of a write message: the byte at `data + k` goes to DR, and then
`xferred` is k + 1; the wait for TXE, or for BTF after the last byte, follows; after the last byte of a read message
the next message without a stop, or the stop waits (R73, R160, R161, R162, R163, R164). The byte stored is DR[7:0] (R73),
which is the last received one (R48) wherever DR holds it; where a byte has been written since, as where an aborted read has
left RXNE set, that it is DR[7:0] is the model's reading of R73 beside R48 (log entries 23 and 25). -/
def Obligations.XferMovesAByte : Prop :=
  ∀ (s : State) (bus : BitVec 4) (b : BusId) (m : Msg) (k : Nat), i2cBusOf s.plat bus = some b →
    allows s.plat (m.data.toNat + k) 1 = true → allows s.plat (currentDesc s b + 6) 2 = true →
    (RunsAt s (.xfer m (.wait (.rxne k) .sr1)) → (s.i2cAt b).sr1 &&& 0x00004F00 = 0 →
      testBit (s.i2cAt b).sr1 i2cRXNE = true →
      ∃ u, exec (.i2cMasterXfer bus) s = .next u ∧
        runExec (.i2cMasterXfer bus) (if k + 2 = m.len then 4 else 3) u =
          .next (((s.setI2c b { s.i2cAt b with
              cr1 := if k + 2 = m.len then clearBit (s.i2cAt b).cr1 i2cACK &&& i2cCr1Mask else (s.i2cAt b).cr1
              sr1 := clearBit (clearBit (s.i2cAt b).sr1 i2cRXNE) i2cBTF
              armed1 := false }).setMem
            ((s.mem.write (m.data.toNat + k) ((s.i2cAt b).dr.setWidth 8)).write16 (currentDesc s b + 6)
              (BitVec.ofNat 16 (k + 1)))).goto
                (if k + 1 < m.len then .xfer m (.wait (.rxne (k + 1)) .sr1)
                  else if (s.i2cAt b).dev.cursor.idx.toNat + 1 < (s.i2cAt b).dev.cursor.count.toNat then
                    .xferLoad (.index ((s.i2cAt b).dev.cursor.idx.toNat + 1))
                  else .xfer m (.wait .pendStop .sr1)))) ∧
    (RunsAt s (.xfer m (.txFetch k)) →
      ∃ u, exec (.i2cMasterXfer bus) s = .next u ∧ runExec (.i2cMasterXfer bus) 2 u =
        .next (((s.setI2c b { s.i2cAt b with
            dr := (s.mem.read (m.data.toNat + k)).setWidth 32
            sr1 := clearBit (if (s.i2cAt b).armed1 then
                clearBit (clearBit (clearBit (s.i2cAt b).sr1 i2cSB) i2cADD10) i2cBTF
              else (s.i2cAt b).sr1) i2cTXE
            txPending := true
            armed1 := false }).setMem
          (s.mem.write16 (currentDesc s b + 6) (BitVec.ofNat 16 (k + 1)))).goto
            (.xfer m (if k + 1 < m.len then .wait (.txe (k + 1)) .sr1 else .wait .btf .sr1))))

/-- The bus probe, whole: I2C.MASTER_XFER of one write message of length 0 on an enabled, free bus, with the peripheral's
steps where the command waits for them. An acknowledged address gives RES 0, TransferDone, a start, the address byte and a
stop on the bus, and a free bus; an unacknowledged one gives RES -1, Error and the flag AF (R153, R169, R172, R175). The
addresses 0x78 to 0x7F, of whose bytes some read as a 10-bit header (R194), are left out. -/
def Obligations.ProbeOfAnAddress : Prop :=
  ∀ (s : State) (bus : BitVec 4) (b : BusId) (c d : Nat) (ack : Bool) (rest : List Turn),
    s.env = List.replicate 20 (Turn.ofCtx c) ++ [.ofAgent (.i2c b .accept), .ofAgent (.i2c b .generate), .ofCtx c,
      .ofCtx c, .ofAgent (.i2c b .address) 0 ack] ++
      (if ack then List.replicate 5 (Turn.ofCtx c) ++ [.ofAgent (.i2c b .stop)] ++ List.replicate 6 (Turn.ofCtx c)
        else List.replicate 7 (Turn.ofCtx c)) ++ rest →
    RunsAt s .start → decode s.me.issued.cmd = .ok (.i2cMasterXfer bus) → i2cBusOf s.plat bus = some b →
    (s.i2cAt b).inflight = none → (s.i2cAt b).dev.state = .idle → (s.i2cAt b).pe = true →
    (s.i2cAt b).connected = true → (s.i2cAt b).phase = .idle → (s.i2cAt b).busy = false →
    (s.i2cAt b).cr1 &&& 0x00001300 = 0 →
    d = s.me.issued.arg0.toNat → d % 4 = 0 → s.me.issued.arg1 = 1 →
    (s.mem.read16 d).toNat < 0x78 → s.mem.read16 (d + 2) = 0 → s.mem.read16 (d + 4) = 0 →
    allows s.plat d 2 = true → allows s.plat (d + 2) 2 = true → allows s.plat (d + 4) 2 = true →
    allows s.plat (d + 8) 4 = true → allows s.plat (d + 6) 2 = true →
    ∃ u t, exec (.i2cMasterXfer bus) s = .next u ∧
      steps (if ack then 36 else 31) u.advance = .next t ∧ t.env = rest ∧
      t.ctxAt c = { s.ctxAt c with
        res := if ack then 0 else 0xFFFFFFFF, resWritten := true, pos := .ready, cc := (s.ctxAt c).cc + 1 } ∧
      (t.i2cAt b).inflight = none ∧
      (t.i2cAt b).dev.state = (if ack then .transferDone else .error) ∧
      (t.i2cAt b).dev.errorFlags = (if ack then 0 else 0x0400) ∧
      t.mem = s.mem.write16 (d + 6) 0 ∧
      t.events = s.events ++ [.i2cStart b false,
        .i2cByte b .write (BitVec.ofNat 8 (2 * (s.mem.read16 d).toNat)) ack] ++
        (if ack then [.i2cStop b] else []) ∧
      (ack = true → (t.i2cAt b).busy = false ∧ (t.i2cAt b).msl = false) ∧
      (∀ e, t.spiAt e = s.spiAt e) ∧ (∀ e, e ≠ b → t.i2cAt e = s.i2cAt e)

/-! ## The I2C peripheral -/

/-- The start: accepted in the phases of R193 with START requested, and in no other phase; generated next, repeated exactly
where the bus is already owned (R193). That it is not accepted in phase Started is the model's choice of R193's list over
R250's remark (log entry 22). -/
def Obligations.I2cStartSteps : Prop :=
  ∀ (s : State) (b : BusId), i2cValid s.plat b = true → (s.i2cAt b).pe = true → (s.i2cAt b).connected = true →
    (s.turn.agent = .i2c b .accept → (s.i2cAt b).startReq = true →
      ((s.i2cAt b).phase ∈ [.idle, .rx, .failed, .lost] ∨
        ((s.i2cAt b).phase = .tx ∧ (s.i2cAt b).txPending = false)) →
      step s = .next (s.setI2c b { s.i2cAt b with phase := .startReq }).advance) ∧
    (s.turn.agent = .i2c b .accept →
      ((s.i2cAt b).startReq = false ∨ (s.i2cAt b).phase ∈ [.startReq, .started, .hdrSent, .addressed] ∨
        ((s.i2cAt b).phase = .tx ∧ (s.i2cAt b).txPending = true)) →
      step s = .next s.advance) ∧
    (s.turn.agent = .i2c b .generate → (s.i2cAt b).phase = .startReq →
      step s = .next ((s.setI2c b { s.i2cAt b with
        sr1 := clearBit (clearBit (setBit (s.i2cAt b).sr1 i2cSB) i2cBTF) i2cTXE
        sr2 := setBit (setBit (s.i2cAt b).sr2 i2cMSL) i2cBUSY
        cr1 := clearBit (s.i2cAt b).cr1 i2cSTART
        txPending := false
        nacked := false
        phase := .started }).emit (.i2cStart b ((s.i2cAt b).busy && (s.i2cAt b).msl))).advance)

/-- The address byte: a 10-bit write header sets ADD10, any other byte the direction and ADDR, with an ACK; without one AF
is set. TRA follows the direction at an acknowledged address (for a read, log entry 20). The second 10-bit byte with an ACK
sets ADDR (R194, R195). -/
def Obligations.I2cAddressSteps : Prop :=
  ∀ (s : State) (b : BusId) (a : Byte) (header : Bool), i2cValid s.plat b = true → (s.i2cAt b).pe = true →
    (s.i2cAt b).connected = true → (s.i2cAt b).txPending = true → a = (s.i2cAt b).dr.setWidth 8 →
    header = (a &&& 0xF9 == 0xF0) →
    (s.turn.agent = .i2c b .address → (s.i2cAt b).phase = .started →
      step s = .next ((s.setI2c b { s.i2cAt b with
        txPending := false
        dir := if header && !s.turn.bit then (s.i2cAt b).dir else if a.getLsbD 0 then .read else .write
        sr1 := setBit (s.i2cAt b).sr1 (if s.turn.bit then if header then i2cADD10 else i2cADDR else i2cAF)
        sr2 := if s.turn.bit && !header then putBit (s.i2cAt b).sr2 i2cTRA (!a.getLsbD 0) else (s.i2cAt b).sr2
        phase := if s.turn.bit then if header then .hdrSent else .addressed else .failed }).emit
          (.i2cByte b .write a s.turn.bit)).advance) ∧
    (s.turn.agent = .i2c b .address2 → (s.i2cAt b).phase = .hdrSent →
      step s = .next ((s.setI2c b { s.i2cAt b with
        txPending := false
        sr1 := setBit (s.i2cAt b).sr1 (if s.turn.bit then i2cADDR else i2cAF)
        sr2 := if s.turn.bit then setBit (s.i2cAt b).sr2 i2cTRA else (s.i2cAt b).sr2
        phase := if s.turn.bit then .addressed else .failed }).emit (.i2cByte b .write a s.turn.bit)).advance)

/-- A data byte sent sets TXE and BTF with an ACK, AF without; a data byte received goes to DR with RXNE and is the last
received byte, acknowledged as CR1.ACK says, and after an unacknowledged one none is received; a stop ends the transaction and
leaves RXNE (R197, R198, R200). -/
def Obligations.I2cDataAndStopSteps : Prop :=
  ∀ (s : State) (b : BusId), i2cValid s.plat b = true → (s.i2cAt b).pe = true → (s.i2cAt b).connected = true →
    (s.turn.agent = .i2c b .transmit → (s.i2cAt b).phase = .tx → (s.i2cAt b).txPending = true →
      step s = .next ((s.setI2c b { s.i2cAt b with
        txPending := false
        sr1 := if s.turn.bit then setBit (setBit (s.i2cAt b).sr1 i2cTXE) i2cBTF else setBit (s.i2cAt b).sr1 i2cAF
        phase := if s.turn.bit then .tx else .failed }).emit
          (.i2cByte b .write ((s.i2cAt b).dr.setWidth 8) s.turn.bit)).advance) ∧
    (s.turn.agent = .i2c b .receive → (s.i2cAt b).phase = .rx → testBit (s.i2cAt b).sr1 i2cRXNE = false →
      step s = .next (if (s.i2cAt b).nacked then s else (s.setI2c b { s.i2cAt b with
        dr := s.turn.byte.setWidth 32
        received := s.turn.byte
        sr1 := setBit (s.i2cAt b).sr1 i2cRXNE
        nacked := !(s.i2cAt b).ack }).emit (.i2cByte b .read s.turn.byte (s.i2cAt b).ack)).advance) ∧
    (s.turn.agent = .i2c b .stop → (s.i2cAt b).stopReq = true →
      ¬((s.i2cAt b).phase = .tx ∧ (s.i2cAt b).txPending = true) →
      step s = .next ((s.setI2c b { s.i2cAt b with
        cr1 := clearBit (s.i2cAt b).cr1 i2cSTOP
        sr2 := clearBit (clearBit (clearBit (s.i2cAt b).sr2 i2cMSL) i2cBUSY) i2cTRA
        sr1 := clearBit (clearBit (clearBit (clearBit (s.i2cAt b).sr1 i2cSB) i2cADDR) i2cADD10) i2cBTF
        txPending := false
        nacked := false
        phase := .idle }).emitAll (if (s.i2cAt b).msl then [.i2cStop b] else [])).advance)

/-- A peripheral that is disabled, or whose pins are not its own, takes no step; and where every choice is one that
NO_FAULT allows, no step of an agent sets an error bit of SR1 (R202, R199). -/
def Obligations.I2cStepsNeedTheBus : Prop :=
  (∀ (s : State) (b : BusId) (k : I2cStep), s.turn.agent = .i2c b k →
    ((s.i2cAt b).pe = false ∨ (s.i2cAt b).connected = false) → step s = .next s.advance) ∧
  ∀ (s t : State) (b : BusId), s.turn.noFault b = true → step s = .next t →
    (s.i2cAt b).sr1 &&& 0x0000FF00 = 0 → (t.i2cAt b).sr1 &&& 0x0000FF00 = 0

/-- The PE clear of I2C.MASTER_ENABLE on an enabled peripheral: ACK, START and STOP cleared, of SR1 only the error bits
kept, SR2 cleared, the peripheral idle, and no stop on the bus (R201). -/
def Obligations.PeripheralDisable : Prop :=
  ∀ (s : State) (bus flags : BitVec 4) (b : BusId), RunsAt s .start → i2cBusOf s.plat bus = some b →
    (s.i2cAt b).inflight = none → (flags.getLsbD 2 = true → b = .b1) → (s.i2cAt b).pe = true →
    exec (.i2cMasterEnable bus flags) s = .next ((s.setI2c b { s.i2cAt b with
      inflight := some s.cur
      cr1 := (s.i2cAt b).cr1 &&& 0x0000B8FA
      sr1 := (s.i2cAt b).sr1 &&& 0x0000FF00
      sr2 := 0
      phase := .idle
      txPending := false
      nacked := false }).goto (.enabling .cr2))

/-! ## Caller memory -/

/-- The 2-byte write of `xferred` is little-endian: the byte at the lower address is the less significant, a 2-byte read
gives the value back, and every other address reads as before (R63, R64). -/
def Obligations.HalfWritesAreLittleEndian : Prop :=
  ∀ (m : Memory) (a : Nat) (v : Half), m.wf = true →
    (m.write16 a v).read a = v.extractLsb' 0 8 ∧ (m.write16 a v).read (a + 1) = v.extractLsb' 8 8 ∧
    (m.write16 a v).read16 a = v ∧ ∀ c, c ≠ a → c ≠ a + 1 → (m.write16 a v).read c = m.read c

/-- An access past the top of the address space, one that meets a register of an existing bus, and one that ADMIT does not
admit is refused (R62, R67). A refused access of a command, whichever memory access of its pseudocode it is, or of a caller's
store is no step: the context stays where it is with nothing changed, without a fault record (R67, R215; that the micro-step
is then an idle step of the machine is log entry 10). -/
def Obligations.RefusedAccessIsStuck : Prop :=
  (∀ (p : Platform) (a n : Nat), 2 ^ 32 < a + n → allows p a n = false) ∧
  (∀ (p : Platform) (b : BusId) (a n : Nat), 0 < n →
    ((spiValid p b = true ∧ a < (p.spiBase.get b).toNat + 0x24 ∧ (p.spiBase.get b).toNat < a + n) ∨
      (i2cValid p b = true ∧ a < (p.i2cBase.get b).toNat + 0x24 ∧ (p.i2cBase.get b).toNat < a + n)) →
    allows p a n = false) ∧
  (∀ (p : Platform) (a n : Nat), (∀ r ∈ p.admitted, r.width ≠ n ∨ a < r.base ∨ r.base + r.size < a + n) →
    allows p a n = false) ∧
  (∀ (s : State) (bus : BitVec 4) (b : BusId) (k : Nat) (v : Byte), spiBusOf s.plat bus = some b →
    RunsAt s (.reading (.store k v)) → allows s.plat (s.me.issued.arg0.toNat + k) 1 = false →
    exec (.spiRead bus) s = .next s) ∧
  (∀ (s : State) (bus : BitVec 4) (b : BusId) (txed t : Nat), spiBusOf s.plat bus = some b →
    RunsAt s (.writing (.fetch txed t)) → allows s.plat (s.me.issued.arg0.toNat + txed + t) 1 = false →
    exec (.spiWrite bus) s = .next s) ∧
  (∀ (s : State) (bus : BitVec 4) (b : BusId) (p : Pos) (v d a n : Nat), i2cBusOf s.plat bus = some b → RunsAt s p →
    v = s.me.issued.arg0.toNat → d = (s.i2cAt b).dev.cursor.msgs.toNat + 12 * (s.i2cAt b).dev.cursor.idx.toNat →
    (match p with
      | .xferEntry (.checkAddr i) => a = v + 12 * i ∧ n = 2
      | .xferEntry (.checkFlags i _) => a = v + 12 * i + 2 ∧ n = 2
      | .xferEntry (.checkLen i _ _) => a = v + 12 * i + 4 ∧ n = 2
      | .xferLoad .addr => a = d ∧ n = 2
      | .xferLoad (.flags _) => a = d + 2 ∧ n = 2
      | .xferLoad (.len _ _) => a = d + 4 ∧ n = 2
      | .xferLoad (.data _ _ _) => a = d + 8 ∧ n = 4
      | .xferLoad (.clear _) => a = d + 6 ∧ n = 2
      | .xfer m (.rxStore k _) => a = m.data.toNat + k ∧ n = 1
      | .xfer m (.txFetch k) => a = m.data.toNat + k ∧ n = 1
      | .xfer _ (.rxCount _) => a = d + 6 ∧ n = 2
      | .xfer _ (.txCount _) => a = d + 6 ∧ n = 2
      | _ => False) →
    allows s.plat a n = false → exec (.i2cMasterXfer bus) s = .next s) ∧
  ∀ (s : State) (a : Word) (v : Byte) (rest : List CallerAct), s.turn.agent = .ctx → RunsAt s .ready →
    s.me.program = .store a v :: rest → allows s.plat a.toNat 1 = false → step s = .next s.advance

/-! ## Whole-machine rules -/

/-- Power-on meets the invariants of the statements below. That memory is canonical there is the model's choice: an empty list,
whose bytes read 0 (log entry 4; R233 calls caller memory a draw). The platform is free but for its register blocks, which are
disjoint (R76; log entry 2). -/
def Obligations.PowerOnMeetsTheInvariants : Prop :=
  State.reset.mem.wf = true ∧ State.reset.busesOk ∧ State.reset.controlOk ∧ State.reset.busyOk ∧
    blocksApart State.reset.plat = true

/-- Every step keeps caller memory in its canonical form (the model's own form, log entry 4). -/
def Obligations.StepKeepsMemoryCanonical : Prop :=
  ∀ s t : State, s.mem.wf = true → step s = .next t → t.mem.wf = true

/-- Every step keeps the register invariants of every bus instance: reserved and unused register bits stay 0, flags that are
never set stay 0, registers the engine never writes keep their reset values, no frame is in flight on a disabled SPI
instance, and a disabled I2C peripheral is idle (R9, R34, R39, R42, R45 to R52, R189, R192, R199, R201, R218). -/
def Obligations.StepKeepsTheRegisterInvariants : Prop :=
  ∀ s t : State, s.busesOk → step s = .next t → t.busesOk

/-- Every step keeps the control invariants: every context stands at a micro-step of the command it issued, holds the
instance that command runs on, programs timing registers with PE = 0 only, and transfers with the device Busy; and with it,
that a Busy device is owned by a context inside I2C.MASTER_XFER on it (R26, R27, R33, R146, R222, R225). -/
def Obligations.StepKeepsControl : Prop :=
  ∀ s t : State, s.controlOk → step s = .next t → t.controlOk ∧ (s.busyOk → t.busyOk)

/-- With the control invariant no step is refused, and the one fault is a read of RES before its first write: the write of
a timing register with PE = 1 that R225 gives no meaning is never reached (R24, R225). -/
def Obligations.ControlledStepsAreSafe : Prop :=
  ∀ s : State, s.controlOk → SafeStep (step s)

/-- The device state changes only by a context's micro-step, and only as the list of R36 says: I2C.INIT to Disabled;
I2C.MASTER_ENABLE to Idle, from Disabled, TransferDone or Error (from Idle it stays); the guard of I2C.MASTER_XFER from Idle,
TransferDone or Error to Busy; its success exit from Busy to TransferDone, its fault and timeout exits from Busy to Error. That
I2C.MASTER_ENABLE never finds the device Busy needs the invariant `busyOk` (R33, R36, R146). -/
def Obligations.DeviceStateTransitions : Prop :=
  ∀ (s t : State) (b : BusId), s.controlOk → step s = .next t →
    (t.i2cAt b).dev.state ≠ (s.i2cAt b).dev.state →
    s.turn.agent = .ctx ∧ ∃ i, decode s.me.issued.cmd = .ok i ∧ i2cBusOf s.plat i.bus = some b ∧
      ((∃ bus, i = .i2cInit bus ∧ (t.i2cAt b).dev.state = .disabled) ∨
        (∃ bus flags, i = .i2cMasterEnable bus flags ∧ (t.i2cAt b).dev.state = .idle ∧
          (s.busyOk → (s.i2cAt b).dev.state = .disabled ∨ (s.i2cAt b).dev.state = .transferDone ∨
            (s.i2cAt b).dev.state = .error)) ∨
        (∃ bus, i = .i2cMasterXfer bus ∧ (t.i2cAt b).dev.state = .busy ∧
          ((s.i2cAt b).dev.state = .idle ∨ (s.i2cAt b).dev.state = .transferDone ∨
            (s.i2cAt b).dev.state = .error)) ∨
        (∃ bus m, i = .i2cMasterXfer bus ∧ (s.i2cAt b).dev.state = .busy ∧
          ((s.me.pos = .xfer m (.exitState .ok) ∧ (t.i2cAt b).dev.state = .transferDone) ∨
            ((s.me.pos = .xfer m (.exitState .protocol) ∨ s.me.pos = .xfer m (.exitState .timeout)) ∧
              (t.i2cAt b).dev.state = .error))))

/-- A command changes no other instance: an SPI command no I2C state and no other SPI instance, an I2C command no SPI state
and no other I2C instance, a calculator no instance, no memory and no record (R77, R110, R137, R223). And no address lies in
the register blocks of two instances of a platform that keeps R76. -/
def Obligations.CommandsAreIndependent : Prop :=
  (∀ (p : Platform) (a : Nat) (d e : BusId) (inBlock : Word → Prop), blocksApart p = true →
    (∀ base, inBlock base ↔ base.toNat ≤ a ∧ a < base.toNat + blockSize p) →
    (d ≠ e → spiValid p d = true → spiValid p e = true → ¬(inBlock (p.spiBase.get d) ∧ inBlock (p.spiBase.get e))) ∧
    (d ≠ e → i2cValid p d = true → i2cValid p e = true → ¬(inBlock (p.i2cBase.get d) ∧ inBlock (p.i2cBase.get e))) ∧
    (spiValid p d = true → i2cValid p e = true → ¬(inBlock (p.spiBase.get d) ∧ inBlock (p.i2cBase.get e)))) ∧
  ∀ (i : Instr) (s t : State), exec i s = .next t →
    (i.isSpi = true → t.i2c = s.i2c ∧ ∀ d, spiBusOf s.plat i.bus ≠ some d → t.spiAt d = s.spiAt d) ∧
    (i.isSpi = false → t.spi = s.spi ∧ ∀ d, i2cBusOf s.plat i.bus ≠ some d → t.i2cAt d = s.i2cAt d) ∧
    (i.accesses = false → t.spi = s.spi ∧ t.i2c = s.i2c ∧ t.mem = s.mem ∧ t.events = s.events)

/-- No step changes the platform or the number of contexts; records are only appended; the time source moves only by its
own step, by one modulo 2^32 (R11, R185, R203, R227). -/
def Obligations.RecordAndTimeOnlyAdvance : Prop :=
  ∀ s t : State, step s = .next t →
    t.plat = s.plat ∧ t.ctxs.length = s.ctxs.length ∧ s.events <+: t.events ∧
    t.now.toNat = (if s.turn.agent = .time then (s.now.toNat + 1) % 2 ^ 32 else s.now.toNat)

end Statements
end

