-- ==== Sys2Proof/Laws/State.lean ====
section
/-! SUPPORT. The small lemmas of the state record: one per field per update, and how updates of the same part combine. -/

namespace Sys2Proof

/-! ## Banks -/

@[simp] theorem Bank.get_put_same {α : Type} (x : Bank α) (b : BusId) (v : α) : (x.put b v).get b = v := by
  cases b <;> rfl

@[simp] theorem Bank.get_put_other {α : Type} (x : Bank α) {b d : BusId} (v : α) (h : d ≠ b) :
    (x.put b v).get d = x.get d := by
  cases b <;> cases d <;> first | rfl | exact absurd rfl h

@[simp] theorem Bank.put_put {α : Type} (x : Bank α) (b : BusId) (v w : α) : (x.put b v).put b w = x.put b w := by
  cases b <;> rfl

@[simp] theorem Bank.put_get {α : Type} (x : Bank α) (b : BusId) : x.put b (x.get b) = x := by
  cases b <;> rfl

/-- Two banks with the same value for every bus are equal. -/
theorem Bank.ext_get {α : Type} {x y : Bank α} (h : ∀ b, x.get b = y.get b) : x = y := by
  cases x; cases y
  simpa [Bank.get] using And.intro (h .b1) (And.intro (h .b2) (h .b3))

end Sys2Proof

namespace Sys2Proof.Machine

/-! ## Fields under updates -/

/-! ### setCtx -/

@[simp] theorem State.setCtx_spi (s : State) (c : Nat) (x : Ctx) : (s.setCtx c x).spi = s.spi := by rfl
@[simp] theorem State.setCtx_i2c (s : State) (c : Nat) (x : Ctx) : (s.setCtx c x).i2c = s.i2c := by rfl
@[simp] theorem State.setCtx_now (s : State) (c : Nat) (x : Ctx) : (s.setCtx c x).now = s.now := by rfl
@[simp] theorem State.setCtx_events (s : State) (c : Nat) (x : Ctx) : (s.setCtx c x).events = s.events := by rfl
@[simp] theorem State.setCtx_mem (s : State) (c : Nat) (x : Ctx) : (s.setCtx c x).mem = s.mem := by rfl
@[simp] theorem State.setCtx_plat (s : State) (c : Nat) (x : Ctx) : (s.setCtx c x).plat = s.plat := by rfl
@[simp] theorem State.setCtx_env (s : State) (c : Nat) (x : Ctx) : (s.setCtx c x).env = s.env := by rfl
@[simp] theorem State.setCtx_seq (s : State) (c : Nat) (x : Ctx) : (s.setCtx c x).seq = s.seq := by rfl
@[simp] theorem State.setCtx_turn (s : State) (c : Nat) (x : Ctx) : (s.setCtx c x).turn = s.turn := by rfl
@[simp] theorem State.setCtx_cur (s : State) (c : Nat) (x : Ctx) : (s.setCtx c x).cur = s.cur := by rfl
@[simp] theorem State.setCtx_length (s : State) (c : Nat) (x : Ctx) : (s.setCtx c x).ctxs.length = s.ctxs.length := by
  simp [State.setCtx]
@[simp] theorem State.setCtx_spiAt (s : State) (c : Nat) (x : Ctx) (d : BusId) : (s.setCtx c x).spiAt d = s.spiAt d := by rfl
@[simp] theorem State.setCtx_i2cAt (s : State) (c : Nat) (x : Ctx) (d : BusId) : (s.setCtx c x).i2cAt d = s.i2cAt d := by rfl

/-! ### setMe -/

@[simp] theorem State.setMe_spi (s : State) (x : Ctx) : (s.setMe x).spi = s.spi := by rfl
@[simp] theorem State.setMe_i2c (s : State) (x : Ctx) : (s.setMe x).i2c = s.i2c := by rfl
@[simp] theorem State.setMe_now (s : State) (x : Ctx) : (s.setMe x).now = s.now := by rfl
@[simp] theorem State.setMe_events (s : State) (x : Ctx) : (s.setMe x).events = s.events := by rfl
@[simp] theorem State.setMe_mem (s : State) (x : Ctx) : (s.setMe x).mem = s.mem := by rfl
@[simp] theorem State.setMe_plat (s : State) (x : Ctx) : (s.setMe x).plat = s.plat := by rfl
@[simp] theorem State.setMe_env (s : State) (x : Ctx) : (s.setMe x).env = s.env := by rfl
@[simp] theorem State.setMe_seq (s : State) (x : Ctx) : (s.setMe x).seq = s.seq := by rfl
@[simp] theorem State.setMe_turn (s : State) (x : Ctx) : (s.setMe x).turn = s.turn := by rfl
@[simp] theorem State.setMe_cur (s : State) (x : Ctx) : (s.setMe x).cur = s.cur := by rfl
@[simp] theorem State.setMe_length (s : State) (x : Ctx) : (s.setMe x).ctxs.length = s.ctxs.length := by
  simp [State.setMe, State.setCtx]
@[simp] theorem State.setMe_spiAt (s : State) (x : Ctx) (d : BusId) : (s.setMe x).spiAt d = s.spiAt d := by rfl
@[simp] theorem State.setMe_i2cAt (s : State) (x : Ctx) (d : BusId) : (s.setMe x).i2cAt d = s.i2cAt d := by rfl

/-! ### goto -/

@[simp] theorem State.goto_spi (s : State) (p : Pos) : (s.goto p).spi = s.spi := by rfl
@[simp] theorem State.goto_i2c (s : State) (p : Pos) : (s.goto p).i2c = s.i2c := by rfl
@[simp] theorem State.goto_now (s : State) (p : Pos) : (s.goto p).now = s.now := by rfl
@[simp] theorem State.goto_events (s : State) (p : Pos) : (s.goto p).events = s.events := by rfl
@[simp] theorem State.goto_mem (s : State) (p : Pos) : (s.goto p).mem = s.mem := by rfl
@[simp] theorem State.goto_plat (s : State) (p : Pos) : (s.goto p).plat = s.plat := by rfl
@[simp] theorem State.goto_env (s : State) (p : Pos) : (s.goto p).env = s.env := by rfl
@[simp] theorem State.goto_seq (s : State) (p : Pos) : (s.goto p).seq = s.seq := by rfl
@[simp] theorem State.goto_turn (s : State) (p : Pos) : (s.goto p).turn = s.turn := by rfl
@[simp] theorem State.goto_cur (s : State) (p : Pos) : (s.goto p).cur = s.cur := by rfl
@[simp] theorem State.goto_length (s : State) (p : Pos) : (s.goto p).ctxs.length = s.ctxs.length := by
  simp [State.goto, State.setMe, State.setCtx]
@[simp] theorem State.goto_spiAt (s : State) (p : Pos) (d : BusId) : (s.goto p).spiAt d = s.spiAt d := by rfl
@[simp] theorem State.goto_i2cAt (s : State) (p : Pos) (d : BusId) : (s.goto p).i2cAt d = s.i2cAt d := by rfl

/-! ### setRes -/

@[simp] theorem State.setRes_spi (s : State) (v : Word) : (s.setRes v).spi = s.spi := by rfl
@[simp] theorem State.setRes_i2c (s : State) (v : Word) : (s.setRes v).i2c = s.i2c := by rfl
@[simp] theorem State.setRes_now (s : State) (v : Word) : (s.setRes v).now = s.now := by rfl
@[simp] theorem State.setRes_events (s : State) (v : Word) : (s.setRes v).events = s.events := by rfl
@[simp] theorem State.setRes_mem (s : State) (v : Word) : (s.setRes v).mem = s.mem := by rfl
@[simp] theorem State.setRes_plat (s : State) (v : Word) : (s.setRes v).plat = s.plat := by rfl
@[simp] theorem State.setRes_env (s : State) (v : Word) : (s.setRes v).env = s.env := by rfl
@[simp] theorem State.setRes_seq (s : State) (v : Word) : (s.setRes v).seq = s.seq := by rfl
@[simp] theorem State.setRes_turn (s : State) (v : Word) : (s.setRes v).turn = s.turn := by rfl
@[simp] theorem State.setRes_cur (s : State) (v : Word) : (s.setRes v).cur = s.cur := by rfl
@[simp] theorem State.setRes_length (s : State) (v : Word) : (s.setRes v).ctxs.length = s.ctxs.length := by
  simp [State.setRes, State.setMe, State.setCtx]
@[simp] theorem State.setRes_spiAt (s : State) (v : Word) (d : BusId) : (s.setRes v).spiAt d = s.spiAt d := by rfl
@[simp] theorem State.setRes_i2cAt (s : State) (v : Word) (d : BusId) : (s.setRes v).i2cAt d = s.i2cAt d := by rfl

/-! ### returned -/

@[simp] theorem State.returned_spi (s : State) : (s.returned).spi = s.spi := by rfl
@[simp] theorem State.returned_i2c (s : State) : (s.returned).i2c = s.i2c := by rfl
@[simp] theorem State.returned_now (s : State) : (s.returned).now = s.now := by rfl
@[simp] theorem State.returned_events (s : State) : (s.returned).events = s.events := by rfl
@[simp] theorem State.returned_mem (s : State) : (s.returned).mem = s.mem := by rfl
@[simp] theorem State.returned_plat (s : State) : (s.returned).plat = s.plat := by rfl
@[simp] theorem State.returned_env (s : State) : (s.returned).env = s.env := by rfl
@[simp] theorem State.returned_seq (s : State) : (s.returned).seq = s.seq := by rfl
@[simp] theorem State.returned_turn (s : State) : (s.returned).turn = s.turn := by rfl
@[simp] theorem State.returned_cur (s : State) : (s.returned).cur = s.cur := by rfl
@[simp] theorem State.returned_length (s : State) : (s.returned).ctxs.length = s.ctxs.length := by
  simp [State.returned, State.setMe, State.setCtx]
@[simp] theorem State.returned_spiAt (s : State) (d : BusId) : (s.returned).spiAt d = s.spiAt d := by rfl
@[simp] theorem State.returned_i2cAt (s : State) (d : BusId) : (s.returned).i2cAt d = s.i2cAt d := by rfl

/-! ### setSpi -/

@[simp] theorem State.setSpi_ctxs (s : State) (b : BusId) (x : SpiBus) : (s.setSpi b x).ctxs = s.ctxs := by rfl
@[simp] theorem State.setSpi_i2c (s : State) (b : BusId) (x : SpiBus) : (s.setSpi b x).i2c = s.i2c := by rfl
@[simp] theorem State.setSpi_now (s : State) (b : BusId) (x : SpiBus) : (s.setSpi b x).now = s.now := by rfl
@[simp] theorem State.setSpi_events (s : State) (b : BusId) (x : SpiBus) : (s.setSpi b x).events = s.events := by rfl
@[simp] theorem State.setSpi_mem (s : State) (b : BusId) (x : SpiBus) : (s.setSpi b x).mem = s.mem := by rfl
@[simp] theorem State.setSpi_plat (s : State) (b : BusId) (x : SpiBus) : (s.setSpi b x).plat = s.plat := by rfl
@[simp] theorem State.setSpi_env (s : State) (b : BusId) (x : SpiBus) : (s.setSpi b x).env = s.env := by rfl
@[simp] theorem State.setSpi_seq (s : State) (b : BusId) (x : SpiBus) : (s.setSpi b x).seq = s.seq := by rfl
@[simp] theorem State.setSpi_turn (s : State) (b : BusId) (x : SpiBus) : (s.setSpi b x).turn = s.turn := by rfl
@[simp] theorem State.setSpi_cur (s : State) (b : BusId) (x : SpiBus) : (s.setSpi b x).cur = s.cur := by rfl
@[simp] theorem State.setSpi_me (s : State) (b : BusId) (x : SpiBus) : (s.setSpi b x).me = s.me := by rfl
@[simp] theorem State.setSpi_ctxAt (s : State) (b : BusId) (x : SpiBus) (d : Nat) : (s.setSpi b x).ctxAt d = s.ctxAt d := by rfl
@[simp] theorem State.setSpi_i2cAt (s : State) (b : BusId) (x : SpiBus) (d : BusId) : (s.setSpi b x).i2cAt d = s.i2cAt d := by rfl

/-! ### setI2c -/

@[simp] theorem State.setI2c_ctxs (s : State) (b : BusId) (x : I2cBus) : (s.setI2c b x).ctxs = s.ctxs := by rfl
@[simp] theorem State.setI2c_spi (s : State) (b : BusId) (x : I2cBus) : (s.setI2c b x).spi = s.spi := by rfl
@[simp] theorem State.setI2c_now (s : State) (b : BusId) (x : I2cBus) : (s.setI2c b x).now = s.now := by rfl
@[simp] theorem State.setI2c_events (s : State) (b : BusId) (x : I2cBus) : (s.setI2c b x).events = s.events := by rfl
@[simp] theorem State.setI2c_mem (s : State) (b : BusId) (x : I2cBus) : (s.setI2c b x).mem = s.mem := by rfl
@[simp] theorem State.setI2c_plat (s : State) (b : BusId) (x : I2cBus) : (s.setI2c b x).plat = s.plat := by rfl
@[simp] theorem State.setI2c_env (s : State) (b : BusId) (x : I2cBus) : (s.setI2c b x).env = s.env := by rfl
@[simp] theorem State.setI2c_seq (s : State) (b : BusId) (x : I2cBus) : (s.setI2c b x).seq = s.seq := by rfl
@[simp] theorem State.setI2c_turn (s : State) (b : BusId) (x : I2cBus) : (s.setI2c b x).turn = s.turn := by rfl
@[simp] theorem State.setI2c_cur (s : State) (b : BusId) (x : I2cBus) : (s.setI2c b x).cur = s.cur := by rfl
@[simp] theorem State.setI2c_me (s : State) (b : BusId) (x : I2cBus) : (s.setI2c b x).me = s.me := by rfl
@[simp] theorem State.setI2c_ctxAt (s : State) (b : BusId) (x : I2cBus) (d : Nat) : (s.setI2c b x).ctxAt d = s.ctxAt d := by rfl
@[simp] theorem State.setI2c_spiAt (s : State) (b : BusId) (x : I2cBus) (d : BusId) : (s.setI2c b x).spiAt d = s.spiAt d := by rfl

/-! ### emitAll -/

@[simp] theorem State.emitAll_ctxs (s : State) (es : List BusEvent) : (s.emitAll es).ctxs = s.ctxs := by rfl
@[simp] theorem State.emitAll_spi (s : State) (es : List BusEvent) : (s.emitAll es).spi = s.spi := by rfl
@[simp] theorem State.emitAll_i2c (s : State) (es : List BusEvent) : (s.emitAll es).i2c = s.i2c := by rfl
@[simp] theorem State.emitAll_now (s : State) (es : List BusEvent) : (s.emitAll es).now = s.now := by rfl
@[simp] theorem State.emitAll_mem (s : State) (es : List BusEvent) : (s.emitAll es).mem = s.mem := by rfl
@[simp] theorem State.emitAll_plat (s : State) (es : List BusEvent) : (s.emitAll es).plat = s.plat := by rfl
@[simp] theorem State.emitAll_env (s : State) (es : List BusEvent) : (s.emitAll es).env = s.env := by rfl
@[simp] theorem State.emitAll_seq (s : State) (es : List BusEvent) : (s.emitAll es).seq = s.seq := by rfl
@[simp] theorem State.emitAll_turn (s : State) (es : List BusEvent) : (s.emitAll es).turn = s.turn := by rfl
@[simp] theorem State.emitAll_cur (s : State) (es : List BusEvent) : (s.emitAll es).cur = s.cur := by rfl
@[simp] theorem State.emitAll_me (s : State) (es : List BusEvent) : (s.emitAll es).me = s.me := by rfl
@[simp] theorem State.emitAll_ctxAt (s : State) (es : List BusEvent) (d : Nat) : (s.emitAll es).ctxAt d = s.ctxAt d := by rfl
@[simp] theorem State.emitAll_spiAt (s : State) (es : List BusEvent) (d : BusId) : (s.emitAll es).spiAt d = s.spiAt d := by rfl
@[simp] theorem State.emitAll_i2cAt (s : State) (es : List BusEvent) (d : BusId) : (s.emitAll es).i2cAt d = s.i2cAt d := by rfl

/-! ### emit -/

@[simp] theorem State.emit_ctxs (s : State) (e : BusEvent) : (s.emit e).ctxs = s.ctxs := by rfl
@[simp] theorem State.emit_spi (s : State) (e : BusEvent) : (s.emit e).spi = s.spi := by rfl
@[simp] theorem State.emit_i2c (s : State) (e : BusEvent) : (s.emit e).i2c = s.i2c := by rfl
@[simp] theorem State.emit_now (s : State) (e : BusEvent) : (s.emit e).now = s.now := by rfl
@[simp] theorem State.emit_mem (s : State) (e : BusEvent) : (s.emit e).mem = s.mem := by rfl
@[simp] theorem State.emit_plat (s : State) (e : BusEvent) : (s.emit e).plat = s.plat := by rfl
@[simp] theorem State.emit_env (s : State) (e : BusEvent) : (s.emit e).env = s.env := by rfl
@[simp] theorem State.emit_seq (s : State) (e : BusEvent) : (s.emit e).seq = s.seq := by rfl
@[simp] theorem State.emit_turn (s : State) (e : BusEvent) : (s.emit e).turn = s.turn := by rfl
@[simp] theorem State.emit_cur (s : State) (e : BusEvent) : (s.emit e).cur = s.cur := by rfl
@[simp] theorem State.emit_me (s : State) (e : BusEvent) : (s.emit e).me = s.me := by rfl
@[simp] theorem State.emit_ctxAt (s : State) (e : BusEvent) (d : Nat) : (s.emit e).ctxAt d = s.ctxAt d := by rfl
@[simp] theorem State.emit_spiAt (s : State) (e : BusEvent) (d : BusId) : (s.emit e).spiAt d = s.spiAt d := by rfl
@[simp] theorem State.emit_i2cAt (s : State) (e : BusEvent) (d : BusId) : (s.emit e).i2cAt d = s.i2cAt d := by rfl

/-! ### setMem -/

@[simp] theorem State.setMem_ctxs (s : State) (m : Memory) : (s.setMem m).ctxs = s.ctxs := by rfl
@[simp] theorem State.setMem_spi (s : State) (m : Memory) : (s.setMem m).spi = s.spi := by rfl
@[simp] theorem State.setMem_i2c (s : State) (m : Memory) : (s.setMem m).i2c = s.i2c := by rfl
@[simp] theorem State.setMem_now (s : State) (m : Memory) : (s.setMem m).now = s.now := by rfl
@[simp] theorem State.setMem_events (s : State) (m : Memory) : (s.setMem m).events = s.events := by rfl
@[simp] theorem State.setMem_plat (s : State) (m : Memory) : (s.setMem m).plat = s.plat := by rfl
@[simp] theorem State.setMem_env (s : State) (m : Memory) : (s.setMem m).env = s.env := by rfl
@[simp] theorem State.setMem_seq (s : State) (m : Memory) : (s.setMem m).seq = s.seq := by rfl
@[simp] theorem State.setMem_turn (s : State) (m : Memory) : (s.setMem m).turn = s.turn := by rfl
@[simp] theorem State.setMem_cur (s : State) (m : Memory) : (s.setMem m).cur = s.cur := by rfl
@[simp] theorem State.setMem_me (s : State) (m : Memory) : (s.setMem m).me = s.me := by rfl
@[simp] theorem State.setMem_ctxAt (s : State) (m : Memory) (d : Nat) : (s.setMem m).ctxAt d = s.ctxAt d := by rfl
@[simp] theorem State.setMem_spiAt (s : State) (m : Memory) (d : BusId) : (s.setMem m).spiAt d = s.spiAt d := by rfl
@[simp] theorem State.setMem_i2cAt (s : State) (m : Memory) (d : BusId) : (s.setMem m).i2cAt d = s.i2cAt d := by rfl

/-! ### setDev -/

@[simp] theorem State.setDev_ctxs (s : State) (b : BusId) (v : Dev) : (s.setDev b v).ctxs = s.ctxs := by rfl
@[simp] theorem State.setDev_spi (s : State) (b : BusId) (v : Dev) : (s.setDev b v).spi = s.spi := by rfl
@[simp] theorem State.setDev_now (s : State) (b : BusId) (v : Dev) : (s.setDev b v).now = s.now := by rfl
@[simp] theorem State.setDev_events (s : State) (b : BusId) (v : Dev) : (s.setDev b v).events = s.events := by rfl
@[simp] theorem State.setDev_mem (s : State) (b : BusId) (v : Dev) : (s.setDev b v).mem = s.mem := by rfl
@[simp] theorem State.setDev_plat (s : State) (b : BusId) (v : Dev) : (s.setDev b v).plat = s.plat := by rfl
@[simp] theorem State.setDev_env (s : State) (b : BusId) (v : Dev) : (s.setDev b v).env = s.env := by rfl
@[simp] theorem State.setDev_seq (s : State) (b : BusId) (v : Dev) : (s.setDev b v).seq = s.seq := by rfl
@[simp] theorem State.setDev_turn (s : State) (b : BusId) (v : Dev) : (s.setDev b v).turn = s.turn := by rfl
@[simp] theorem State.setDev_cur (s : State) (b : BusId) (v : Dev) : (s.setDev b v).cur = s.cur := by rfl
@[simp] theorem State.setDev_me (s : State) (b : BusId) (v : Dev) : (s.setDev b v).me = s.me := by rfl
@[simp] theorem State.setDev_ctxAt (s : State) (b : BusId) (v : Dev) (d : Nat) : (s.setDev b v).ctxAt d = s.ctxAt d := by rfl
@[simp] theorem State.setDev_spiAt (s : State) (b : BusId) (v : Dev) (d : BusId) : (s.setDev b v).spiAt d = s.spiAt d := by rfl

/-! ### setCursor -/

@[simp] theorem State.setCursor_ctxs (s : State) (b : BusId) (c : Cursor) : (s.setCursor b c).ctxs = s.ctxs := by rfl
@[simp] theorem State.setCursor_spi (s : State) (b : BusId) (c : Cursor) : (s.setCursor b c).spi = s.spi := by rfl
@[simp] theorem State.setCursor_now (s : State) (b : BusId) (c : Cursor) : (s.setCursor b c).now = s.now := by rfl
@[simp] theorem State.setCursor_events (s : State) (b : BusId) (c : Cursor) : (s.setCursor b c).events = s.events := by rfl
@[simp] theorem State.setCursor_mem (s : State) (b : BusId) (c : Cursor) : (s.setCursor b c).mem = s.mem := by rfl
@[simp] theorem State.setCursor_plat (s : State) (b : BusId) (c : Cursor) : (s.setCursor b c).plat = s.plat := by rfl
@[simp] theorem State.setCursor_env (s : State) (b : BusId) (c : Cursor) : (s.setCursor b c).env = s.env := by rfl
@[simp] theorem State.setCursor_seq (s : State) (b : BusId) (c : Cursor) : (s.setCursor b c).seq = s.seq := by rfl
@[simp] theorem State.setCursor_turn (s : State) (b : BusId) (c : Cursor) : (s.setCursor b c).turn = s.turn := by rfl
@[simp] theorem State.setCursor_cur (s : State) (b : BusId) (c : Cursor) : (s.setCursor b c).cur = s.cur := by rfl
@[simp] theorem State.setCursor_me (s : State) (b : BusId) (c : Cursor) : (s.setCursor b c).me = s.me := by rfl
@[simp] theorem State.setCursor_ctxAt (s : State) (b : BusId) (c : Cursor) (d : Nat) : (s.setCursor b c).ctxAt d = s.ctxAt d := by rfl
@[simp] theorem State.setCursor_spiAt (s : State) (b : BusId) (c : Cursor) (d : BusId) : (s.setCursor b c).spiAt d = s.spiAt d := by rfl

/-! ### modifyI2cCr1 -/

@[simp] theorem State.modifyI2cCr1_ctxs (s : State) (b : BusId) (v : Word) : (s.modifyI2cCr1 b v).ctxs = s.ctxs := by rfl
@[simp] theorem State.modifyI2cCr1_spi (s : State) (b : BusId) (v : Word) : (s.modifyI2cCr1 b v).spi = s.spi := by rfl
@[simp] theorem State.modifyI2cCr1_now (s : State) (b : BusId) (v : Word) : (s.modifyI2cCr1 b v).now = s.now := by rfl
@[simp] theorem State.modifyI2cCr1_events (s : State) (b : BusId) (v : Word) : (s.modifyI2cCr1 b v).events = s.events := by rfl
@[simp] theorem State.modifyI2cCr1_mem (s : State) (b : BusId) (v : Word) : (s.modifyI2cCr1 b v).mem = s.mem := by rfl
@[simp] theorem State.modifyI2cCr1_plat (s : State) (b : BusId) (v : Word) : (s.modifyI2cCr1 b v).plat = s.plat := by rfl
@[simp] theorem State.modifyI2cCr1_env (s : State) (b : BusId) (v : Word) : (s.modifyI2cCr1 b v).env = s.env := by rfl
@[simp] theorem State.modifyI2cCr1_seq (s : State) (b : BusId) (v : Word) : (s.modifyI2cCr1 b v).seq = s.seq := by rfl
@[simp] theorem State.modifyI2cCr1_turn (s : State) (b : BusId) (v : Word) : (s.modifyI2cCr1 b v).turn = s.turn := by rfl
@[simp] theorem State.modifyI2cCr1_cur (s : State) (b : BusId) (v : Word) : (s.modifyI2cCr1 b v).cur = s.cur := by rfl
@[simp] theorem State.modifyI2cCr1_me (s : State) (b : BusId) (v : Word) : (s.modifyI2cCr1 b v).me = s.me := by rfl
@[simp] theorem State.modifyI2cCr1_ctxAt (s : State) (b : BusId) (v : Word) (d : Nat) : (s.modifyI2cCr1 b v).ctxAt d = s.ctxAt d := by rfl
@[simp] theorem State.modifyI2cCr1_spiAt (s : State) (b : BusId) (v : Word) (d : BusId) : (s.modifyI2cCr1 b v).spiAt d = s.spiAt d := by rfl

/-! ### writeI2cDr -/

@[simp] theorem State.writeI2cDr_ctxs (s : State) (b : BusId) (v : Byte) : (s.writeI2cDr b v).ctxs = s.ctxs := by rfl
@[simp] theorem State.writeI2cDr_spi (s : State) (b : BusId) (v : Byte) : (s.writeI2cDr b v).spi = s.spi := by rfl
@[simp] theorem State.writeI2cDr_now (s : State) (b : BusId) (v : Byte) : (s.writeI2cDr b v).now = s.now := by rfl
@[simp] theorem State.writeI2cDr_events (s : State) (b : BusId) (v : Byte) : (s.writeI2cDr b v).events = s.events := by rfl
@[simp] theorem State.writeI2cDr_mem (s : State) (b : BusId) (v : Byte) : (s.writeI2cDr b v).mem = s.mem := by rfl
@[simp] theorem State.writeI2cDr_plat (s : State) (b : BusId) (v : Byte) : (s.writeI2cDr b v).plat = s.plat := by rfl
@[simp] theorem State.writeI2cDr_env (s : State) (b : BusId) (v : Byte) : (s.writeI2cDr b v).env = s.env := by rfl
@[simp] theorem State.writeI2cDr_seq (s : State) (b : BusId) (v : Byte) : (s.writeI2cDr b v).seq = s.seq := by rfl
@[simp] theorem State.writeI2cDr_turn (s : State) (b : BusId) (v : Byte) : (s.writeI2cDr b v).turn = s.turn := by rfl
@[simp] theorem State.writeI2cDr_cur (s : State) (b : BusId) (v : Byte) : (s.writeI2cDr b v).cur = s.cur := by rfl
@[simp] theorem State.writeI2cDr_me (s : State) (b : BusId) (v : Byte) : (s.writeI2cDr b v).me = s.me := by rfl
@[simp] theorem State.writeI2cDr_ctxAt (s : State) (b : BusId) (v : Byte) (d : Nat) : (s.writeI2cDr b v).ctxAt d = s.ctxAt d := by rfl
@[simp] theorem State.writeI2cDr_spiAt (s : State) (b : BusId) (v : Byte) (d : BusId) : (s.writeI2cDr b v).spiAt d = s.spiAt d := by rfl

/-! ### readI2cSr2 -/

@[simp] theorem State.readI2cSr2_ctxs (s : State) (b : BusId) : (s.readI2cSr2 b).ctxs = s.ctxs := by rfl
@[simp] theorem State.readI2cSr2_spi (s : State) (b : BusId) : (s.readI2cSr2 b).spi = s.spi := by rfl
@[simp] theorem State.readI2cSr2_now (s : State) (b : BusId) : (s.readI2cSr2 b).now = s.now := by rfl
@[simp] theorem State.readI2cSr2_events (s : State) (b : BusId) : (s.readI2cSr2 b).events = s.events := by rfl
@[simp] theorem State.readI2cSr2_mem (s : State) (b : BusId) : (s.readI2cSr2 b).mem = s.mem := by rfl
@[simp] theorem State.readI2cSr2_plat (s : State) (b : BusId) : (s.readI2cSr2 b).plat = s.plat := by rfl
@[simp] theorem State.readI2cSr2_env (s : State) (b : BusId) : (s.readI2cSr2 b).env = s.env := by rfl
@[simp] theorem State.readI2cSr2_seq (s : State) (b : BusId) : (s.readI2cSr2 b).seq = s.seq := by rfl
@[simp] theorem State.readI2cSr2_turn (s : State) (b : BusId) : (s.readI2cSr2 b).turn = s.turn := by rfl
@[simp] theorem State.readI2cSr2_cur (s : State) (b : BusId) : (s.readI2cSr2 b).cur = s.cur := by rfl
@[simp] theorem State.readI2cSr2_me (s : State) (b : BusId) : (s.readI2cSr2 b).me = s.me := by rfl
@[simp] theorem State.readI2cSr2_ctxAt (s : State) (b : BusId) (d : Nat) : (s.readI2cSr2 b).ctxAt d = s.ctxAt d := by rfl
@[simp] theorem State.readI2cSr2_spiAt (s : State) (b : BusId) (d : BusId) : (s.readI2cSr2 b).spiAt d = s.spiAt d := by rfl

/-! ### advance -/

@[simp] theorem State.advance_ctxs (s : State) : (s.advance).ctxs = s.ctxs := by rfl
@[simp] theorem State.advance_spi (s : State) : (s.advance).spi = s.spi := by rfl
@[simp] theorem State.advance_i2c (s : State) : (s.advance).i2c = s.i2c := by rfl
@[simp] theorem State.advance_now (s : State) : (s.advance).now = s.now := by rfl
@[simp] theorem State.advance_events (s : State) : (s.advance).events = s.events := by rfl
@[simp] theorem State.advance_mem (s : State) : (s.advance).mem = s.mem := by rfl
@[simp] theorem State.advance_plat (s : State) : (s.advance).plat = s.plat := by rfl
@[simp] theorem State.advance_ctxAt (s : State) (d : Nat) : (s.advance).ctxAt d = s.ctxAt d := by rfl
@[simp] theorem State.advance_spiAt (s : State) (d : BusId) : (s.advance).spiAt d = s.spiAt d := by rfl
@[simp] theorem State.advance_i2cAt (s : State) (d : BusId) : (s.advance).i2cAt d = s.i2cAt d := by rfl
/-! ## Updates of the same part -/

@[simp] theorem State.spiAt_setSpi (s : State) (b : BusId) (x : SpiBus) : (s.setSpi b x).spiAt b = x :=
  Bank.get_put_same ..

@[simp] theorem State.spiAt_setSpi_other (s : State) {b d : BusId} (x : SpiBus) (h : d ≠ b) :
    (s.setSpi b x).spiAt d = s.spiAt d := Bank.get_put_other _ _ h

@[simp] theorem State.i2cAt_setI2c (s : State) (b : BusId) (x : I2cBus) : (s.setI2c b x).i2cAt b = x :=
  Bank.get_put_same ..

@[simp] theorem State.i2cAt_setI2c_other (s : State) {b d : BusId} (x : I2cBus) (h : d ≠ b) :
    (s.setI2c b x).i2cAt d = s.i2cAt d := Bank.get_put_other _ _ h

@[simp] theorem State.setSpi_setSpi (s : State) (b : BusId) (x y : SpiBus) :
    (s.setSpi b x).setSpi b y = s.setSpi b y := by
  simp [State.setSpi]

@[simp] theorem State.setI2c_setI2c (s : State) (b : BusId) (x y : I2cBus) :
    (s.setI2c b x).setI2c b y = s.setI2c b y := by
  simp [State.setI2c]

@[simp] theorem State.setSpi_spiAt (s : State) (b : BusId) : s.setSpi b (s.spiAt b) = s := by
  simp [State.setSpi, State.spiAt]

@[simp] theorem State.setI2c_i2cAt (s : State) (b : BusId) : s.setI2c b (s.i2cAt b) = s := by
  simp [State.setI2c, State.i2cAt]

/-- The running context after it was replaced. -/
theorem State.me_setMe {s : State} (h : s.cur < s.ctxs.length) (x : Ctx) : (s.setMe x).me = x := by
  simp [State.me, State.ctxAt, State.setMe, State.setCtx, State.cur, State.turn] at *
  simp [h]

@[simp] theorem State.setMe_setMe (s : State) (x y : Ctx) : (s.setMe x).setMe y = s.setMe y := by
  simp [State.setMe, State.setCtx, State.cur, State.turn]

@[simp] theorem State.setMe_me (s : State) : s.setMe s.me = s := by
  rcases Nat.lt_or_ge s.cur s.ctxs.length with h | h
  · simp [State.setMe, State.setCtx, State.me, State.ctxAt, h]
  · simp [State.setMe, State.setCtx, List.set_eq_of_length_le h]

/-- Another context is untouched by a replacement of the running one. -/
theorem State.ctxAt_setMe_other (s : State) (x : Ctx) {c : Nat} (h : c ≠ s.cur) :
    (s.setMe x).ctxAt c = s.ctxAt c := by
  simp [State.ctxAt, State.setMe, State.setCtx, List.getElem?_set_ne (Ne.symm h)]

@[simp] theorem State.emitAll_events (s : State) (es : List BusEvent) : (s.emitAll es).events = s.events ++ es := by rfl

@[simp] theorem State.emit_events (s : State) (e : BusEvent) : (s.emit e).events = s.events ++ [e] := by rfl

@[simp] theorem State.setMem_mem (s : State) (m : Memory) : (s.setMem m).mem = m := by rfl

@[simp] theorem State.advance_seq (s : State) : s.advance.seq = s.seq + 1 := by rfl

@[simp] theorem State.advance_env (s : State) : s.advance.env = s.env.tail := by rfl

/-! ## Updates of different parts: replacing the running context stands outermost, then the other parts -/

@[simp] theorem State.setSpi_setMe (s : State) (b : BusId) (x : SpiBus) (y : Ctx) :
    (s.setMe y).setSpi b x = (s.setSpi b x).setMe y := by rfl

@[simp] theorem State.setI2c_setMe (s : State) (b : BusId) (x : I2cBus) (y : Ctx) :
    (s.setMe y).setI2c b x = (s.setI2c b x).setMe y := by rfl

@[simp] theorem State.emitAll_setMe (s : State) (es : List BusEvent) (y : Ctx) :
    (s.setMe y).emitAll es = (s.emitAll es).setMe y := by rfl

@[simp] theorem State.emit_setMe (s : State) (e : BusEvent) (y : Ctx) :
    (s.setMe y).emit e = (s.emit e).setMe y := by rfl

@[simp] theorem State.setMem_setMe (s : State) (m : Memory) (y : Ctx) :
    (s.setMe y).setMem m = (s.setMem m).setMe y := by rfl

@[simp] theorem State.setSpi_emit (s : State) (b : BusId) (x : SpiBus) (e : BusEvent) :
    (s.emit e).setSpi b x = (s.setSpi b x).emit e := by rfl

@[simp] theorem State.setI2c_emit (s : State) (b : BusId) (x : I2cBus) (e : BusEvent) :
    (s.emit e).setI2c b x = (s.setI2c b x).emit e := by rfl

@[simp] theorem State.setSpi_setMem (s : State) (b : BusId) (x : SpiBus) (m : Memory) :
    (s.setMem m).setSpi b x = (s.setSpi b x).setMem m := by rfl

@[simp] theorem State.setI2c_setMem (s : State) (b : BusId) (x : I2cBus) (m : Memory) :
    (s.setMem m).setI2c b x = (s.setI2c b x).setMem m := by rfl

end Sys2Proof.Machine
end

