-- ==== Sys2Proof/Laws/Ops.lean ====
section
/-! SUPPORT. One lemma per shared operation that says everything it can do, for the lemmas of the meanings and of the
agents to cite. -/

namespace Sys2Proof.Machine

/-! ## Outcomes and runs -/

@[simp] theorem andThen_next (s : State) (f : State → Result) : andThen (.next s) f = f s := rfl

/-- A sequence of two parts answers a next state exactly where both do. -/
theorem andThen_eq_next {r : Result} {f : State → Result} {t : State} :
    andThen r f = .next t ↔ ∃ u, r = .next u ∧ f u = .next t := by
  cases r <;> simp [andThen]

@[simp] theorem runExec_zero (i : Instr) (s : State) : runExec i 0 s = .next s := rfl

theorem runExec_succ (i : Instr) (n : Nat) (s : State) : runExec i (n + 1) s = andThen (exec i s) (runExec i n) := rfl

@[simp] theorem steps_zero (s : State) : steps 0 s = .next s := rfl

theorem steps_succ (n : Nat) (s : State) : steps (n + 1) s = andThen (step s) (steps n) := rfl

/-- A run of `m + n` micro-steps is one of `m` and then one of `n`. -/
theorem runExec_add (i : Instr) (m n : Nat) (s : State) :
    runExec i (m + n) s = andThen (runExec i m s) (runExec i n) := by
  induction m generalizing s with
  | zero => simp
  | succ m ih =>
    rw [Nat.succ_add, runExec_succ, runExec_succ]
    cases exec i s <;> simp [andThen, ih]

/-- A run of `m + n` steps is one of `m` and then one of `n`. -/
theorem steps_add (m n : Nat) (s : State) : steps (m + n) s = andThen (steps m s) (steps n) := by
  induction m generalizing s with
  | zero => simp
  | succ m ih =>
    rw [Nat.succ_add, steps_succ, steps_succ]
    cases step s <;> simp [andThen, ih]

/-! ## The running context -/

/-- The configuration error is a next state: the halted one (R210). -/
theorem raise_eq (k : ErrorKind) (s : State) : raise k s = .next (s.halted k) := rfl

/-- What the claim of an SPI instance does (R222): held, it is a configuration error; free, the command goes on holding
it. -/
theorem acquireSpi_cases (b : BusId) (s : State) (k : State → Result) :
    (∃ c, (s.spiAt b).inflight = some c ∧ acquireSpi b s k = .next (s.halted .concurrentUse)) ∨
    ((s.spiAt b).inflight = none ∧
      acquireSpi b s k = k (s.setSpi b { s.spiAt b with inflight := some s.cur })) := by
  cases h : (s.spiAt b).inflight with
  | none => exact .inr ⟨rfl, by simp [acquireSpi, h]⟩
  | some c => exact .inl ⟨c, rfl, by simp [acquireSpi, h, raise_eq]⟩

/-- What the claim of an I2C instance does (R222). -/
theorem acquireI2c_cases (b : BusId) (s : State) (k : State → Result) :
    (∃ c, (s.i2cAt b).inflight = some c ∧ acquireI2c b s k = .next (s.halted .concurrentUse)) ∨
    ((s.i2cAt b).inflight = none ∧
      acquireI2c b s k = k (s.setI2c b { s.i2cAt b with inflight := some s.cur })) := by
  cases h : (s.i2cAt b).inflight with
  | none => exact .inr ⟨rfl, by simp [acquireI2c, h]⟩
  | some c => exact .inl ⟨c, rfl, by simp [acquireI2c, h, raise_eq]⟩

/-- A free SPI instance is claimed. -/
theorem acquireSpi_free {b : BusId} {s : State} (k : State → Result) (h : (s.spiAt b).inflight = none) :
    acquireSpi b s k = k (s.setSpi b { s.spiAt b with inflight := some s.cur }) := by
  simp [acquireSpi, h]

/-- A free I2C instance is claimed. -/
theorem acquireI2c_free {b : BusId} {s : State} (k : State → Result) (h : (s.i2cAt b).inflight = none) :
    acquireI2c b s k = k (s.setI2c b { s.i2cAt b with inflight := some s.cur }) := by
  simp [acquireI2c, h]

/-- What a CR1 write of an SPI instance does (R72, R224). -/
theorem spiWriteCr1_cases (b : BusId) (v : Word) (s : State) (k : State → Result) :
    ((s.spiAt b).disablesBusy v = true ∧ spiWriteCr1 b v s k = .next (s.halted .disableWhileBusy)) ∨
    ((s.spiAt b).disablesBusy v = false ∧ spiWriteCr1 b v s k = k (s.setSpi b ((s.spiAt b).writeCr1 v))) := by
  cases h : (s.spiAt b).disablesBusy v with
  | false => exact .inr ⟨rfl, by simp [spiWriteCr1, h]⟩
  | true => exact .inl ⟨rfl, by simp [spiWriteCr1, h, raise_eq]⟩

/-- What a write of an I2C timing register does (R225). -/
theorem i2cWriteTiming_cases (b : BusId) (f : I2cBus → I2cBus) (s : State) (k : State → Result) :
    ((s.i2cAt b).pe = true ∧ i2cWriteTiming b f s k = .refused .timingWhileEnabled) ∨
    ((s.i2cAt b).pe = false ∧ i2cWriteTiming b f s k = k (s.setI2c b (f (s.i2cAt b)))) := by
  cases h : (s.i2cAt b).pe with
  | false => exact .inr ⟨rfl, by simp [i2cWriteTiming, h]⟩
  | true => exact .inl ⟨rfl, by simp [i2cWriteTiming, h]⟩

/-- The register blocks are those of the instances that exist (R8, R61). -/
theorem mem_blockBases {p : Platform} {x : Word} : x ∈ blockBases p ↔
    (∃ b, spiValid p b = true ∧ p.spiBase.get b = x) ∨ ∃ b, i2cValid p b = true ∧ p.i2cBase.get b = x := by
  simp only [blockBases, List.mem_append, List.mem_map, List.mem_filter]
  constructor
  · rintro (⟨b, ⟨_, h⟩, e⟩ | ⟨b, ⟨_, h⟩, e⟩)
    exacts [.inl ⟨b, h, e⟩, .inr ⟨b, h, e⟩]
  · rintro (⟨b, h, e⟩ | ⟨b, h, e⟩)
    exacts [.inl ⟨b, ⟨by cases b <;> simp, h⟩, e⟩, .inr ⟨b, ⟨by cases b <;> simp, h⟩, e⟩]

/-- What one access of caller memory does: refused, nothing at all (R67, R215). -/
theorem memAccess_cases (a n : Nat) (s : State) (k : Result) :
    (allows s.plat a n = false ∧ memAccess a n s k = .next s) ∨
    (allows s.plat a n = true ∧ memAccess a n s k = k) := by
  cases h : allows s.plat a n with
  | false => exact .inl ⟨rfl, by simp [memAccess, h]⟩
  | true => exact .inr ⟨rfl, by simp [memAccess, h]⟩

/-- What a CR1 write of an I2C instance does (R73, R201): the disable where PE goes from 1 to 0, else the write alone. -/
theorem I2cBus.writeCr1_cases (x : I2cBus) (v : Word) :
    (x.pe = true ∧ testBit v i2cPE = false ∧
      x.writeCr1 v = { x with
        cr1 := clearBit (clearBit (clearBit (v &&& i2cCr1Mask) i2cACK) i2cSTART) i2cSTOP
        sr1 := x.sr1 &&& sr1ErrorBits, sr2 := 0, phase := .idle, txPending := false, nacked := false }) ∨
    ((x.pe = false ∨ testBit v i2cPE = true) ∧ x.writeCr1 v = { x with cr1 := v &&& i2cCr1Mask }) := by
  unfold I2cBus.writeCr1
  cases hp : x.pe <;> cases hv : testBit v i2cPE <;> simp [I2cBus.disable]

/-- A byte that comes from the peer is in DR (R48, R198). -/
theorem I2cBus.holdsReceived_receiveData (x : I2cBus) (v : Byte) : (x.receiveData v).holdsReceived = true := by
  simp [I2cBus.holdsReceived, I2cBus.receiveData]

/-- A read of DR returns the last received byte wherever DR holds it (R48, R73). -/
theorem I2cBus.readDr_of_holdsReceived {x : I2cBus} (h : x.holdsReceived = true) : x.readDr.1 = x.received.setWidth 32 := by
  rw [I2cBus.readDr, I2cBus.drValue, beq_iff_eq.mp h]

/-- What an SR2 read does (R60, R73, R196): ADDR cleared where an SR1 read came before, and then, in phase Addressed, the
move to Tx or Rx. -/
theorem I2cBus.readSr2_cases (x : I2cBus) :
    ((x.armed1 = false ∨ testBit x.sr1 i2cADDR = false) ∧ x.readSr2.2 = { x with armed1 := false }) ∨
    (x.armed1 = true ∧ testBit x.sr1 i2cADDR = true ∧ x.phase ≠ .addressed ∧
      x.readSr2.2 = { x with sr1 := clearBit x.sr1 i2cADDR, armed1 := false }) ∨
    (x.armed1 = true ∧ testBit x.sr1 i2cADDR = true ∧ x.phase = .addressed ∧ x.dir = .write ∧
      x.readSr2.2 = { x with
        sr1 := setBit (clearBit x.sr1 i2cADDR) i2cTXE, phase := .tx, armed1 := false }) ∨
    (x.armed1 = true ∧ testBit x.sr1 i2cADDR = true ∧ x.phase = .addressed ∧ x.dir = .read ∧
      x.readSr2.2 = { x with
        sr1 := clearBit x.sr1 i2cADDR, sr2 := clearBit x.sr2 i2cTRA, phase := .rx, armed1 := false }) := by
  unfold I2cBus.readSr2 I2cBus.clearAddr
  cases ha : x.armed1 <;> cases hb : testBit x.sr1 i2cADDR <;> by_cases hp : x.phase = .addressed <;>
    cases hd : x.dir <;> simp [hp, hd]

/-! ## Caller memory -/

@[simp] theorem Memory.above_nil (c : Nat) : Memory.above c [] = true := rfl

@[simp] theorem Memory.above_cons (c b : Nat) (w : Byte) (m : Memory) :
    Memory.above c ((b, w) :: m) = (decide (c < b) && Memory.above c m) := rfl

/-- Addresses above a bound stay above it under a write above it. -/
theorem Memory.above_write {m : Memory} {a c : Nat} {v : Byte} (h : Memory.above c m = true) (hc : c < a) :
    Memory.above c (m.write a v) = true := by
  induction m with
  | nil => unfold Memory.write; split <;> simp [hc]
  | cons p m ih =>
    obtain ⟨b, w⟩ := p
    simp only [Memory.above_cons, Bool.and_eq_true, decide_eq_true_eq] at h
    unfold Memory.write
    split
    · simp [h.1, ih h.2]
    · split <;> split <;> simp [h.1, h.2, hc]

/-- A lower bound of the listed addresses may be lowered. -/
theorem Memory.above_mono {m : Memory} {a c : Nat} (h : Memory.above a m = true) (hc : c ≤ a) :
    Memory.above c m = true := by
  simp only [Memory.above, List.all_eq_true, decide_eq_true_eq] at *
  intro p hp
  exact Nat.lt_of_le_of_lt hc (h p hp)

/-- A write keeps the canonical form. -/
theorem Memory.wf_write {m : Memory} {a : Nat} {v : Byte} (h : m.wf = true) : (m.write a v).wf = true := by
  induction m with
  | nil => unfold Memory.write; split <;> simp_all [Memory.wf, Memory.above]
  | cons p m ih =>
    obtain ⟨b, w⟩ := p
    simp only [Memory.wf, Bool.and_eq_true] at h
    obtain ⟨⟨hab, hw⟩, hm⟩ := h
    unfold Memory.write
    split
    · rename_i hlt
      simp [Memory.wf, hw, ih hm, Memory.above_write hab hlt]
    · split
      · rename_i heq
        subst heq
        split <;> simp_all [Memory.wf]
      · rename_i hnlt hne
        have hlt : a < b := by omega
        have hup : Memory.above a m = true := Memory.above_mono hab (Nat.le_of_lt hlt)
        split
        · simp [Memory.wf, hab, hw, hm]
        · have hcons : Memory.above a ((b, w) :: m) = true := by
            simpa [Memory.above, hlt] using hup
          simp_all [Memory.wf]

/-- A two-byte write keeps the canonical form. -/
theorem Memory.wf_write16 {m : Memory} {a : Nat} {v : Half} (h : m.wf = true) : (m.write16 a v).wf = true :=
  Memory.wf_write (Memory.wf_write h)

/-- Below every listed address there is nothing but what an unlisted address reads as. -/
theorem Memory.read_of_above {m : Memory} {a : Nat} (h : Memory.above a m = true) :
    m.read a = Config.unwrittenByte := by
  induction m with
  | nil => rfl
  | cons p m ih =>
    obtain ⟨b, w⟩ := p
    simp only [Memory.above, List.all_cons, Bool.and_eq_true, decide_eq_true_eq] at h
    have hne : b ≠ a := by omega
    simp [Memory.read, hne, ih h.2]

/-- A read after a write to the same address gives the value written. -/
theorem Memory.read_write_same {m : Memory} {a : Nat} {v : Byte} (h : m.wf = true) : (m.write a v).read a = v := by
  induction m with
  | nil => unfold Memory.write; split <;> simp_all [Memory.read]
  | cons p m ih =>
    obtain ⟨b, w⟩ := p
    simp only [Memory.wf, Bool.and_eq_true] at h
    obtain ⟨⟨hab, hw⟩, hm⟩ := h
    unfold Memory.write
    split
    · rename_i hlt
      have hne : b ≠ a := by omega
      simp [Memory.read, hne, ih hm]
    · split
      · rename_i heq
        subst heq
        split
        · rename_i hv
          rw [Memory.read_of_above hab, hv]
        · simp [Memory.read]
      · rename_i hnlt hne
        have hup : Memory.above a m = true := Memory.above_mono hab (by omega)
        split
        · rename_i hv
          simp [Memory.read, hne, Memory.read_of_above hup, hv]
        · simp [Memory.read]

/-- A write leaves every other address alone. -/
theorem Memory.read_write_other (m : Memory) {a c : Nat} (v : Byte) (h : c ≠ a) :
    (m.write a v).read c = m.read c := by
  induction m with
  | nil => unfold Memory.write; split <;> simp [Memory.read, Ne.symm h]
  | cons p m ih =>
    obtain ⟨b, w⟩ := p
    unfold Memory.write
    split
    · simp [Memory.read, ih]
    · split
      · rename_i heq
        subst heq
        split <;> simp [Memory.read, Ne.symm h]
      · split
        · rfl
        · simp [Memory.read, Ne.symm h]

/-- Two canonical memories with the same byte at every address are the same data. -/
theorem Memory.eq_of_read_eq {m n : Memory} (hm : m.wf = true) (hn : n.wf = true) (h : ∀ a, m.read a = n.read a) :
    m = n := by
  induction m generalizing n with
  | nil =>
    cases n with
    | nil => rfl
    | cons q n =>
      have := h q.1
      simp_all [Memory.read, Memory.wf]
  | cons p m ih =>
    cases n with
    | nil =>
      have := h p.1
      simp_all [Memory.read, Memory.wf]
    | cons q n =>
      obtain ⟨a, v⟩ := p
      obtain ⟨b, w⟩ := q
      simp only [Memory.wf, Bool.and_eq_true, bne_iff_ne, ne_eq] at hm hn
      have hab : a = b := by
        rcases Nat.lt_trichotomy a b with hlt | heq | hlt
        · have := h a
          have hup := Memory.read_of_above (Memory.above_mono hn.1.1 (Nat.le_of_lt hlt))
          simp [Memory.read, Nat.ne_of_gt hlt, hup] at this
          exact absurd this hm.1.2
        · exact heq
        · have := h b
          have hup := Memory.read_of_above (Memory.above_mono hm.1.1 (Nat.le_of_lt hlt))
          simp [Memory.read, Nat.ne_of_gt hlt, hup] at this
          exact absurd this.symm hn.1.2
      subst hab
      have hv : v = w := by simpa [Memory.read] using h a
      subst hv
      congr 1
      refine ih hm.2 hn.2 fun c => ?_
      by_cases hc : a = c
      · subst hc
        rw [Memory.read_of_above hm.1.1, Memory.read_of_above hn.1.1]
      · simpa [Memory.read, hc] using h c

end Sys2Proof.Machine
end

