-- ==== Sys2Proof/Laws/Effects.lean ====
section
/-! SUPPORT. What a micro-step of any command can do to the machine, said once: the accesses a bus instance can see, the
writes caller memory can see, and the parts no micro-step touches. -/

namespace Sys2Proof.Machine

/-! ## Accesses -/

/-- One access to an SPI instance by context `c` (R27, R72, R205). -/
inductive SpiAccess (c : Nat) : SpiBus → SpiBus → Prop
  | claim (x : SpiBus) (h : x.inflight = none) : SpiAccess c x { x with inflight := some c }
  | release (x : SpiBus) : SpiAccess c x { x with inflight := none }
  | cr1 (x : SpiBus) (v : Word) (h : x.disablesBusy v = false) : SpiAccess c x (x.writeCr1 v)
  | pins (x : SpiBus) (p : PinState) : SpiAccess c x { x with pins := p }
  | readSr (x : SpiBus) : SpiAccess c x x.readSr.2
  | readDr (x : SpiBus) : SpiAccess c x x.readDr.2
  | writeDr (x : SpiBus) (v : Word) : SpiAccess c x (x.writeDr v)

/-- One access to an I2C instance, or update of its engine state, by context `c` (R27, R32 to R35, R73, R205, R206). The
CR1 writes are read-modify-writes of PE, START, STOP or ACK. -/
inductive I2cAccess (c : Nat) : I2cBus → I2cBus → Prop
  | claim (x : I2cBus) (h : x.inflight = none) : I2cAccess c x { x with inflight := some c }
  | release (x : I2cBus) : I2cAccess c x { x with inflight := none }
  | cr1 (x : I2cBus) (i : Nat) (v : Bool) (h : i ∈ [i2cPE, i2cSTART, i2cSTOP, i2cACK]) :
      I2cAccess c x (x.writeCr1 (putBit x.cr1 i v))
  | cr2 (x : I2cBus) (t : Timing) (h : x.pe = false) : I2cAccess c x (x.writeCr2 t.cr2)
  | ccr (x : I2cBus) (t : Timing) (h : x.pe = false) : I2cAccess c x (x.writeCcr t.ccrReg)
  | trise (x : I2cBus) (t : Timing) (h : x.pe = false) : I2cAccess c x (x.writeTrise t.triseReg)
  | pins (x : I2cBus) (p : PinState) : I2cAccess c x { x with pins := p }
  | scl (x : I2cBus) (v : Bool) : I2cAccess c x { x with gpioScl := v }
  | sda (x : I2cBus) (v : Bool) : I2cAccess c x { x with gpioSda := v }
  | reset (x : I2cBus) : I2cAccess c x x.peripheralReset
  | writeSr1 (x : I2cBus) (v : Word) : I2cAccess c x (x.writeSr1 v)
  | readSr1 (x : I2cBus) : I2cAccess c x x.readSr1.2
  | readSr2 (x : I2cBus) : I2cAccess c x x.readSr2.2
  | readDr (x : I2cBus) : I2cAccess c x x.readDr.2
  | writeDr (x : I2cBus) (v : Word) : I2cAccess c x (x.writeDr v)
  | state (x : I2cBus) (d : DevState) : I2cAccess c x { x with dev := { x.dev with state := d } }
  | flags (x : I2cBus) (v : Word) :
      I2cAccess c x { x with dev := { x.dev with errorFlags := (v &&& errMask).setWidth 16 } }
  | cursor (x : I2cBus) (u : Cursor) : I2cAccess c x { x with dev := { x.dev with cursor := u } }

/-- One write of caller memory that the platform admits (R63, R67). -/
inductive MemAccess (p : Platform) : Memory → Memory → Prop
  | byte (m : Memory) (a : Nat) (v : Byte) (h : allows p a 1 = true) : MemAccess p m (m.write a v)
  | half (m : Memory) (a : Nat) (v : Half) (h : allows p a 2 = true) : MemAccess p m (m.write16 a v)

/-- What a micro-step of a command can do: accesses of bus instances, admitted memory writes and appended records, and of
the contexts only the running one, whose port, snapshot, last read and caller's acts stay. -/
structure ExecEffect (s t : State) : Prop where
  plat   : t.plat = s.plat
  env    : t.env = s.env
  seq    : t.seq = s.seq
  now    : t.now = s.now
  length : t.ctxs.length = s.ctxs.length
  other  : ∀ c, c ≠ s.cur → t.ctxAt c = s.ctxAt c
  caller : t.me.port = s.me.port ∧ t.me.issued = s.me.issued ∧ t.me.lastRead = s.me.lastRead ∧
    t.me.program = s.me.program
  events : s.events <+: t.events
  mem    : Relation.ReflTransGen (MemAccess s.plat) s.mem t.mem
  spi    : ∀ b, Relation.ReflTransGen (SpiAccess s.cur) (s.spiAt b) (t.spiAt b)
  i2c    : ∀ b, Relation.ReflTransGen (I2cAccess s.cur) (s.i2cAt b) (t.i2cAt b)

/-- The environment's choice is the same after a micro-step. -/
theorem ExecEffect.turn_eq {s t : State} (h : ExecEffect s t) : t.turn = s.turn := by
  unfold State.turn; rw [h.env, h.seq]

theorem ExecEffect.cur_eq {s t : State} (h : ExecEffect s t) : t.cur = s.cur := by
  unfold State.cur; rw [h.turn_eq]

theorem ExecEffect.refl (s : State) : ExecEffect s s where
  plat := rfl
  env := rfl
  seq := rfl
  now := rfl
  length := rfl
  other _ _ := rfl
  caller := ⟨rfl, rfl, rfl, rfl⟩
  events := List.prefix_rfl
  mem := .refl
  spi _ := .refl
  i2c _ := .refl

theorem ExecEffect.trans {s t u : State} (h : ExecEffect s t) (g : ExecEffect t u) : ExecEffect s u where
  plat := g.plat.trans h.plat
  env := g.env.trans h.env
  seq := g.seq.trans h.seq
  now := g.now.trans h.now
  length := g.length.trans h.length
  other c hc := (g.other c (h.cur_eq ▸ hc)).trans (h.other c hc)
  caller := ⟨g.caller.1.trans h.caller.1, g.caller.2.1.trans h.caller.2.1,
    g.caller.2.2.1.trans h.caller.2.2.1, g.caller.2.2.2.trans h.caller.2.2.2⟩
  events := h.events.trans g.events
  mem := h.mem.trans (h.plat ▸ g.mem)
  spi b := (h.spi b).trans (h.cur_eq ▸ g.spi b)
  i2c b := (h.i2c b).trans (h.cur_eq ▸ g.i2c b)

/-- Moving the position, writing RES, returning or halting changes only the running context. -/
theorem ExecEffect.setMe {s : State} {x : Ctx}
    (h : x.port = s.me.port ∧ x.issued = s.me.issued ∧ x.lastRead = s.me.lastRead ∧ x.program = s.me.program) :
    ExecEffect s (s.setMe x) where
  plat := rfl
  env := rfl
  seq := rfl
  now := rfl
  length := by simp
  other c hc := State.ctxAt_setMe_other s x hc
  caller := by
    rcases Nat.lt_or_ge s.cur s.ctxs.length with hl | hl
    · simpa [State.me_setMe hl] using h
    · have : s.setMe x = s := by simp [State.setMe, State.setCtx, List.set_eq_of_length_le hl]
      rw [this]
      exact ⟨rfl, rfl, rfl, rfl⟩
  events := List.prefix_rfl
  mem := .refl
  spi _ := .refl
  i2c _ := .refl

theorem ExecEffect.goto (s : State) (p : Pos) : ExecEffect s (s.goto p) := .setMe ⟨rfl, rfl, rfl, rfl⟩

theorem ExecEffect.setRes (s : State) (v : Word) : ExecEffect s (s.setRes v) := .setMe ⟨rfl, rfl, rfl, rfl⟩

theorem ExecEffect.returned (s : State) : ExecEffect s s.returned := .setMe ⟨rfl, rfl, rfl, rfl⟩

theorem ExecEffect.halted (s : State) (k : ErrorKind) : ExecEffect s (s.halted k) := .setMe ⟨rfl, rfl, rfl, rfl⟩

/-- One access of an SPI instance. -/
theorem ExecEffect.setSpi {s : State} {b : BusId} {x : SpiBus} (h : SpiAccess s.cur (s.spiAt b) x) :
    ExecEffect s (s.setSpi b x) where
  plat := rfl
  env := rfl
  seq := rfl
  now := rfl
  length := rfl
  other _ _ := rfl
  caller := ⟨rfl, rfl, rfl, rfl⟩
  events := List.prefix_rfl
  mem := .refl
  spi d := by
    by_cases hd : d = b
    · subst hd; simpa using Relation.ReflTransGen.single h
    · rw [State.spiAt_setSpi_other s x hd]
  i2c _ := .refl

/-- One access of an I2C instance. -/
theorem ExecEffect.setI2c {s : State} {b : BusId} {x : I2cBus} (h : I2cAccess s.cur (s.i2cAt b) x) :
    ExecEffect s (s.setI2c b x) where
  plat := rfl
  env := rfl
  seq := rfl
  now := rfl
  length := rfl
  other _ _ := rfl
  caller := ⟨rfl, rfl, rfl, rfl⟩
  events := List.prefix_rfl
  mem := .refl
  spi _ := .refl
  i2c d := by
    by_cases hd : d = b
    · subst hd; simpa using Relation.ReflTransGen.single h
    · rw [State.i2cAt_setI2c_other s x hd]

/-- Appending records. -/
theorem ExecEffect.emit (s : State) (e : BusEvent) : ExecEffect s (s.emit e) :=
  { ExecEffect.refl s with events := List.prefix_append .. }

/-- One admitted memory write. -/
theorem ExecEffect.setMem {s : State} {m : Memory} (h : MemAccess s.plat s.mem m) : ExecEffect s (s.setMem m) :=
  { ExecEffect.refl s with mem := Relation.ReflTransGen.single h }

/-! ## Outcomes whose next state, if any, is such an effect -/

/-- Every next state of the outcome is a micro-step's effect on `s`. -/
structure Reaches (s : State) (r : Result) : Prop where
  effect : ∀ {t : State}, r = .next t → ExecEffect s t

theorem Reaches.next {s t : State} (h : ExecEffect s t) : Reaches s (.next t) where
  effect e := Host.Outcome.next.inj e ▸ h

theorem Reaches.fault (s : State) (e : Fault) : Reaches s (.fault e) where
  effect h := by cases h

theorem Reaches.refused (s : State) (e : Refusal) : Reaches s (.refused e) where
  effect h := by cases h

theorem Reaches.halt {s u : State} (h : ExecEffect s u) (k : ErrorKind) : Reaches s (raise k u) :=
  .next (h.trans (.halted u k))

theorem Reaches.acquireSpi {s : State} {b : BusId} {k : State → Result}
    (h : ∀ u, ExecEffect s u → Reaches s (k u)) : Reaches s (acquireSpi b s k) := by
  rcases acquireSpi_cases b s k with ⟨_, _, e⟩ | ⟨hf, e⟩ <;> rw [e]
  · exact .next (.halted ..)
  · exact h _ (.setSpi (.claim _ hf))

theorem Reaches.acquireI2c {s : State} {b : BusId} {k : State → Result}
    (h : ∀ u, ExecEffect s u → Reaches s (k u)) : Reaches s (acquireI2c b s k) := by
  rcases acquireI2c_cases b s k with ⟨_, _, e⟩ | ⟨hf, e⟩ <;> rw [e]
  · exact .next (.halted ..)
  · exact h _ (.setI2c (.claim _ hf))

theorem Reaches.memAccess {s u : State} (hu : ExecEffect s u) {a n : Nat} {k : Result}
    (h : allows u.plat a n = true → Reaches s k) : Reaches s (memAccess a n u k) := by
  rcases memAccess_cases a n u k with ⟨_, e⟩ | ⟨ha, e⟩ <;> rw [e]
  · exact .next hu
  · exact h ha

theorem Reaches.memRead8 {s u : State} (hu : ExecEffect s u) {a : Nat} {k : Byte → Result}
    (h : ∀ v, Reaches s (k v)) : Reaches s (memRead8 a u k) := .memAccess hu fun _ => h _

theorem Reaches.memRead16 {s u : State} (hu : ExecEffect s u) {a : Nat} {k : Half → Result}
    (h : ∀ v, Reaches s (k v)) : Reaches s (memRead16 a u k) := .memAccess hu fun _ => h _

theorem Reaches.memRead32 {s u : State} (hu : ExecEffect s u) {a : Nat} {k : Word → Result}
    (h : ∀ v, Reaches s (k v)) : Reaches s (memRead32 a u k) := .memAccess hu fun _ => h _

theorem Reaches.memWrite8 {s u : State} (hu : ExecEffect s u) {a : Nat} {v : Byte} {k : State → Result}
    (h : ∀ w, ExecEffect s w → Reaches s (k w)) : Reaches s (memWrite8 a v u k) :=
  .memAccess hu fun ha => h _ (hu.trans (.setMem (.byte _ _ _ ha)))

theorem Reaches.memWrite16 {s u : State} (hu : ExecEffect s u) {a : Nat} {v : Half} {k : State → Result}
    (h : ∀ w, ExecEffect s w → Reaches s (k w)) : Reaches s (memWrite16 a v u k) :=
  .memAccess hu fun ha => h _ (hu.trans (.setMem (.half _ _ _ ha)))

theorem Reaches.spiWriteCr1 {s u : State} (hu : ExecEffect s u) {b : BusId} {v : Word} {k : State → Result}
    (h : ∀ w, ExecEffect s w → Reaches s (k w)) : Reaches s (spiWriteCr1 b v u k) := by
  rcases spiWriteCr1_cases b v u k with ⟨_, e⟩ | ⟨hd, e⟩ <;> rw [e]
  · exact .halt hu _
  · exact h _ (hu.trans (.setSpi (.cr1 _ _ hd)))

theorem Reaches.spiPoll {s u : State} (hu : ExecEffect s u) {b : BusId} {k : Word → State → Result}
    (h : ∀ v w, ExecEffect s w → Reaches s (k v w)) : Reaches s (spiPoll b u k) :=
  h _ _ (hu.trans (.setSpi (.readSr _)))

theorem Reaches.spiTake {s u : State} (hu : ExecEffect s u) {b : BusId} {k : Byte → State → Result}
    (h : ∀ v w, ExecEffect s w → Reaches s (k v w)) : Reaches s (spiTake b u k) :=
  h _ _ (hu.trans (.setSpi (.readDr _)))

/-! ## The commands -/

theorem Reaches.finishSpi {s u : State} (hu : ExecEffect s u) (b : BusId) : Reaches s (finishSpi b u) :=
  .next ((hu.trans (.setSpi (.release _))).trans (.returned _))

theorem Reaches.finishI2c {s u : State} (hu : ExecEffect s u) (b : BusId) : Reaches s (finishI2c b u) :=
  .next ((hu.trans (.setI2c (.release _))).trans (.returned _))

/-- Moving on to another micro-step after an effect. -/
theorem Reaches.goto {s u : State} (hu : ExecEffect s u) (p : Pos) : Reaches s (.next (u.goto p)) :=
  .next (hu.trans (.goto ..))

theorem Reaches.calc {s : State} (r : Except ErrorKind Word) : Reaches s (calcResult r s) := by
  unfold calcResult
  split
  · exact .halt (.refl s) _
  · exact .goto (.setRes ..) _

theorem Reaches.reconfigure {s u : State} (hu : ExecEffect s u) (b : BusId) : Reaches s (spiReconfigure b u) :=
  .spiWriteCr1 hu fun _ hw => .goto hw _

theorem Reaches.pinConfigSpi {s u : State} (hu : ExecEffect s u) (b : BusId) (p : PinState) :
    ExecEffect s (pinConfigSpi b p u) := (hu.trans (.setSpi (.pins _ p))).trans (.emit ..)

theorem Reaches.pinConfigI2c {s u : State} (hu : ExecEffect s u) (b : BusId) (p : PinState) :
    ExecEffect s (pinConfigI2c b p u) := (hu.trans (.setI2c (.pins _ p))).trans (.emit ..)

theorem Reaches.gpioWrite {s u : State} (hu : ExecEffect s u) (b : BusId) (l : Line) (v : Bool) :
    ExecEffect s (gpioWrite b l v u) := by
  cases l
  · exact (hu.trans (.setI2c (.scl _ v))).trans (.emit ..)
  · exact (hu.trans (.setI2c (.sda _ v))).trans (.emit ..)

theorem Reaches.delay {s u : State} (hu : ExecEffect s u) (n : Nat) : ExecEffect s (delayFor n u) :=
  hu.trans (.emit ..)

theorem Reaches.reconfigureStep {s : State} (b : BusId) (cr1 : Word) (c : PinState) (p : CfgPos) :
    Reaches s (spiReconfigureStep b cr1 c p s) := by
  cases p
  · exact .spiWriteCr1 (.refl s) fun _ hw => .goto hw _
  · exact .goto (Reaches.pinConfigSpi (.refl s) b c) _
  · exact .spiWriteCr1 (.refl s) fun _ hw => .goto hw _

theorem Reaches.endStep {s : State} (b : BusId) (p : EndPos) : Reaches s (spiEndStep b p s) := by
  cases p
  · exact .spiPoll (.refl s) fun _ _ hw => .goto hw _
  · exact .spiTake (.refl s) fun _ _ hw => .goto hw _
  · exact .spiPoll (.refl s) fun _ _ hw => .goto hw _
  · exact .spiPoll (.refl s) fun _ _ hw => .goto hw _
  · exact .spiWriteCr1 (.refl s) fun _ hw => .goto hw _

theorem Reaches.readStep {s u : State} (hu : ExecEffect s u) (b : BusId) (buf len : Word) (p : ReadPos) :
    Reaches s (spiReadStep b buf len p u) := by
  cases p
  · exact .spiPoll hu fun _ _ hw => .goto hw _
  · exact .spiTake hu fun _ _ hw => .goto hw _
  · exact .memWrite8 hu fun _ hw => .goto hw _

theorem Reaches.writeStep {s u : State} (hu : ExecEffect s u) (b : BusId) (buf len : Word) (p : WritePos) :
    Reaches s (spiWriteStep b buf len p u) := by
  cases p
  · unfold spiWriteStep
    refine .spiPoll hu fun _ _ hw => ?_
    split <;> exact .goto hw _
  · exact .memRead8 hu fun _ => .goto hu _
  · exact .goto (hu.trans (.setSpi (.writeDr _ _))) _

theorem Reaches.transferStep {s u : State} (hu : ExecEffect s u) (b : BusId) (byte : BitVec 8) (p : TransferPos) :
    Reaches s (spiTransferStep b byte p u) := by
  cases p
  · exact .spiPoll hu fun _ _ hw => .goto hw _
  · exact .goto (hu.trans (.setSpi (.writeDr _ _))) _
  · exact .spiPoll hu fun _ _ hw => .goto hw _
  · exact .spiPoll hu fun _ _ hw => .goto hw _
  · exact .spiTake hu fun _ _ hw => .goto hw _
  · exact .goto (hu.trans (.setRes ..)) _

theorem Reaches.initStep {s : State} (b : BusId) (p : InitPos) : Reaches s (i2cInitStep b p s) := by
  cases p
  · exact .goto (.setI2c (.flags _ 0)) _
  · exact .goto (.setI2c (.reset _)) _

theorem Reaches.busResetStep {s u : State} (hu : ExecEffect s u) (b : BusId) (p : BusResetPos) (done : Pos) :
    Reaches s (busResetStep b p done u) := by
  cases p <;>
    first
    | exact .goto hu _
    | exact .goto (Reaches.gpioWrite hu ..) _
    | exact .goto (Reaches.pinConfigI2c hu ..) _
    | exact .goto (Reaches.delay hu _) _

theorem Reaches.writeTiming {s : State} {b : BusId} {f : I2cBus → I2cBus} {k : State → Result}
    (hf : (s.i2cAt b).pe = false → I2cAccess s.cur (s.i2cAt b) (f (s.i2cAt b)))
    (h : ∀ w, ExecEffect s w → Reaches s (k w)) : Reaches s (i2cWriteTiming b f s k) := by
  rcases i2cWriteTiming_cases b f s k with ⟨_, e⟩ | ⟨hp, e⟩ <;> rw [e]
  · exact .refused ..
  · exact h _ (.setI2c (hf hp))

/-- A read-modify-write of one of the CR1 bits the engine uses. -/
theorem ExecEffect.modifyCr1 (s : State) (b : BusId) (i : Nat) (v : Bool)
    (h : i ∈ [i2cPE, i2cSTART, i2cSTOP, i2cACK]) :
    ExecEffect s (s.setI2c b ((s.i2cAt b).writeCr1 (putBit (s.i2cAt b).cr1 i v))) :=
  .setI2c (.cr1 _ _ _ h)

theorem Reaches.enableStep {s : State} (b : BusId) (flags : BitVec 4) (t : Timing) (p : EnablePos) :
    Reaches s (i2cEnableStep b flags t p s) := by
  cases p
  · exact .writeTiming (f := fun x => x.writeCr2 t.cr2) (fun h => .cr2 _ t h) fun _ hw => .goto hw _
  · exact .writeTiming (f := fun x => x.writeCcr t.ccrReg) (fun h => .ccr _ t h) fun _ hw => .goto hw _
  · exact .writeTiming (f := fun x => x.writeTrise t.triseReg) (fun h => .trise _ t h) fun _ hw => .goto hw _
  · exact .goto (Reaches.pinConfigI2c (.refl s) ..) _
  · exact .goto (.setI2c (.state _ _)) _
  · exact .goto (.modifyCr1 s b i2cPE true (by decide)) _

theorem Reaches.entryStep {s : State} (b : BusId) (p : EntryPos) : Reaches s (xferEntryStep b p s) := by
  cases p
  · exact .memRead16 (.refl s) fun _ => .goto (.refl s) _
  · exact .memRead16 (.refl s) fun _ => .goto (.refl s) _
  · exact .memRead16 (.refl s) fun _ => .goto (.refl s) _
  · exact .halt (.refl s) _
  · exact .goto (.setI2c (.cursor _ _)) _
  · exact .goto (.setI2c (.cursor _ _)) _
  · exact .goto (.setI2c (.cursor _ _)) _
  · exact .goto (.setI2c (.flags _ 0)) _
  · exact .goto (.setI2c (.writeSr1 _ _)) _
  · exact .goto (.refl s) _
  · exact .goto (.setI2c (.cursor _ _)) _

theorem Reaches.loadStep {s : State} (b : BusId) (p : LoadPos) : Reaches s (xferLoadStep b p s) := by
  cases p
  · exact .goto (.setI2c (.cursor _ _)) _
  · exact .memRead16 (.refl s) fun _ => .goto (.refl s) _
  · exact .memRead16 (.refl s) fun _ => .goto (.refl s) _
  · exact .memRead16 (.refl s) fun _ => .goto (.refl s) _
  · exact .memRead32 (.refl s) fun _ => .goto (.refl s) _
  · exact .memWrite16 (.refl s) fun _ hw => .goto hw _

theorem Reaches.waitStep {s : State} (b : BusId) (m : Msg) (w : WaitPt) (t : WaitStage) :
    Reaches s (waitStep b m w t s) := by
  cases t
  · have h : ExecEffect s (s.setI2c b (s.i2cAt b).readSr1.2) := .setI2c (.readSr1 _)
    unfold Machine.waitStep
    dsimp only
    split
    · exact .goto h _
    · split
      · exact .goto h _
      · exact .goto h _
  · exact .goto (.refl s) _
  · exact .goto (.refl s) _

theorem Reaches.xferStep {s : State} (b : BusId) (m : Msg) (p : XferPos) : Reaches s (xferStep b m p s) := by
  cases p with
  | wait w t => exact Reaches.waitStep b m w t
  | ack => exact .goto (.modifyCr1 s b i2cACK _ (by decide)) _
  | start => exact .goto (.modifyCr1 s b i2cSTART true (by decide)) _
  | addr7 => exact .goto (.setI2c (.writeDr _ _)) _
  | header => exact .goto (.setI2c (.writeDr _ _)) _
  | low => exact .goto (.setI2c (.writeDr _ _)) _
  | clearMid => exact .goto (.setI2c (.readSr2 _)) _
  | restart => exact .goto (.modifyCr1 s b i2cSTART true (by decide)) _
  | headerR => exact .goto (.setI2c (.writeDr _ _)) _
  | clearAddr => exact .goto (.setI2c (.readSr2 _)) _
  | ackOff k => exact .goto (.modifyCr1 s b i2cACK false (by decide)) _
  | rxData k => exact .goto (.setI2c (.readDr _)) _
  | rxStore k v => exact .memWrite8 (.refl s) fun _ hw => .goto hw _
  | rxCount k => exact .memWrite16 (.refl s) fun _ hw => .goto hw _
  | txFetch k => exact .memRead8 (.refl s) fun _ => .goto (.refl s) _
  | txData k v => exact .goto (.setI2c (.writeDr _ _)) _
  | txCount k => exact .memWrite16 (.refl s) fun _ hw => .goto hw _
  | stop => exact .goto (.modifyCr1 s b i2cSTOP true (by decide)) _
  | faultFlags v => exact .goto (.setI2c (.flags _ _)) _
  | exitStop e => exact .goto (.modifyCr1 s b i2cSTOP true (by decide)) _
  | exitState e => exact .goto (.setI2c (.state _ _)) _
  | exitFlight e => exact .goto (.setI2c (.release _)) _
  | exitResult e => exact .goto (.setRes ..) _

theorem Reaches.guard {s : State} (b : BusId) : Reaches s (xferGuard b s) := by
  unfold xferGuard
  split
  · exact .acquireI2c fun u hu => .goto (hu.trans (.setI2c (.state _ _))) _
  · exact .next ((ExecEffect.setRes ..).trans (.returned _))

/-- Every micro-step of every command is an effect of this kind. -/
theorem exec_effect {i : Instr} {s t : State} (h : exec i s = .next t) : ExecEffect s t := by
  suffices Reaches s (exec i s) from this.effect h
  cases i with
  | spiBegin bus tier ord mode =>
    unfold exec execSpiBegin
    dsimp only
    split
    · exact .halt (.refl s) _
    · split
      · refine .acquireSpi fun u hu => ?_
        split
        · exact .halt hu _
        · exact .reconfigure hu _
      · split
        · exact .halt (.refl s) _
        · exact .reconfigureStep ..
      · exact .finishSpi (.refl s) _
      · exact .fault ..
  | spiBeginSlave bus ord mode =>
    unfold exec execSpiBeginSlave
    dsimp only
    split
    · exact .halt (.refl s) _
    · split
      · refine .acquireSpi fun u hu => ?_
        split
        · exact .halt hu _
        · exact .reconfigure hu _
      · exact .reconfigureStep ..
      · exact .finishSpi (.refl s) _
      · exact .fault ..
  | spiEnd bus =>
    unfold exec execSpiEnd
    dsimp only
    split
    · exact .halt (.refl s) _
    · split
      · exact .acquireSpi fun u hu => .goto hu _
      · exact .endStep ..
      · exact .finishSpi (.refl s) _
      · exact .fault ..
  | spiRead bus =>
    unfold exec execSpiRead
    dsimp only
    split
    · exact .halt (.refl s) _
    · split
      · refine .acquireSpi fun u hu => ?_
        split
        · exact .finishSpi hu _
        · exact .readStep hu ..
      · exact .readStep (.refl s) ..
      · exact .finishSpi (.refl s) _
      · exact .fault ..
  | spiWrite bus =>
    unfold exec execSpiWrite
    dsimp only
    split
    · exact .halt (.refl s) _
    · split
      · refine .acquireSpi fun u hu => ?_
        split
        · exact .finishSpi hu _
        · exact .writeStep hu ..
      · exact .writeStep (.refl s) ..
      · exact .finishSpi (.refl s) _
      · exact .fault ..
  | spiTransfer bus byte =>
    unfold exec execSpiTransfer
    dsimp only
    split
    · exact .halt (.refl s) _
    · split
      · exact .acquireSpi fun u hu => .transferStep hu ..
      · exact .transferStep (.refl s) ..
      · exact .finishSpi (.refl s) _
      · exact .fault ..
  | spiBaudCalc bus tier =>
    unfold exec execSpiBaudCalc
    dsimp only
    split
    · exact .halt (.refl s) _
    · split
      · exact .calc _
      · exact .next (.returned _)
      · exact .fault ..
  | i2cInit bus =>
    unfold exec execI2cInit
    dsimp only
    split
    · exact .halt (.refl s) _
    · split
      · exact .acquireI2c fun u hu => .goto (hu.trans (.setI2c (.state _ _))) _
      · exact .initStep ..
      · exact .finishI2c (.refl s) _
      · exact .fault ..
  | i2cMasterEnable bus flags =>
    unfold exec execI2cMasterEnable
    dsimp only
    split
    · exact .halt (.refl s) _
    · split
      · refine .acquireI2c fun u hu => ?_
        split
        · exact .halt hu _
        · exact .goto (hu.trans (.modifyCr1 u _ i2cPE false (by decide))) _
      · split
        · exact .halt (.refl s) _
        · exact .enableStep ..
      · exact .busResetStep (.refl s) ..
      · exact .finishI2c (.refl s) _
      · exact .fault ..
  | i2cMasterXfer bus =>
    unfold exec execI2cMasterXfer
    dsimp only
    split
    · exact .halt (.refl s) _
    · split
      · exact .guard _
      · exact .entryStep ..
      · exact .loadStep ..
      · exact .xferStep ..
      · exact .next (.returned _)
      · exact .fault ..
  | i2cBusReset bus =>
    unfold exec execI2cBusReset
    dsimp only
    split
    · exact .halt (.refl s) _
    · split
      · exact .acquireI2c fun u hu => .busResetStep hu ..
      · exact .busResetStep (.refl s) ..
      · exact .finishI2c (.refl s) _
      · exact .fault ..
  | i2cTimingCalc bus flags =>
    unfold exec execI2cTimingCalc
    dsimp only
    split
    · exact .halt (.refl s) _
    · split
      · exact .calc _
      · exact .next (.returned _)
      · exact .fault ..

end Sys2Proof.Machine
end

