-- ==== Sys2Proof/Laws/Encoding.lean ====
section
/-! SUPPORT. The rows of the opcode map: which row an OP byte names, and the row of a command. -/

namespace Sys2Proof

set_option maxRecDepth 4000 in
/-- A row is found exactly by its own OP byte (R91, R92 step 1). -/
theorem Opcode.ofCode_eq_some (op : BitVec 8) (o : Opcode) : Opcode.ofCode op = some o ↔ op = o.code := by
  cases o <;> revert op <;> decide

/-- No row has the OP byte of a word exactly where R94 lists it. -/
theorem Opcode.ofCode_eq_none (w : Word) : Opcode.ofCode (w.extractLsb' 0 8) = none ↔ illegalOp w = true := by
  have h : ∀ op : BitVec 8, Opcode.ofCode op = none ↔
      (op.toNat == 0 || (decide (0x08 ≤ op.toNat) && decide (op.toNat ≤ 0x0F)) || decide (0x15 ≤ op.toNat)) = true := by
    decide
  exact h _

/-- The row of the opcode map a command belongs to (R91). -/
def Instr.row : Instr → Opcode
  | .spiBegin _ _ _ _ => .spiBegin
  | .spiBeginSlave _ _ _ => .spiBeginSlave
  | .spiEnd _ => .spiEnd
  | .spiRead _ => .spiRead
  | .spiWrite _ => .spiWrite
  | .spiTransfer _ _ => .spiTransfer
  | .spiBaudCalc _ _ => .spiBaudCalc
  | .i2cInit _ => .i2cInit
  | .i2cMasterEnable _ _ => .i2cMasterEnable
  | .i2cMasterXfer _ => .i2cMasterXfer
  | .i2cBusReset _ => .i2cBusReset
  | .i2cTimingCalc _ _ => .i2cTimingCalc

/-! ## The bits of the four formats (R86 to R89) -/

/-- Format C0: OP in bits 7:0, BUS in 11:8, the rest 0. -/
theorem formatC0_getLsbD (bus : BitVec 4) (op : BitVec 8) (k : Nat) :
    BitVec.getLsbD (w := 20 + 4 + 8) (0#20 ++ bus ++ op) k =
      if k < 8 then op.getLsbD k else if k < 12 then bus.getLsbD (k - 8) else false := by
  simp only [BitVec.getLsbD_append, BitVec.getLsbD_zero, Nat.sub_sub]
  grind

/-- Format CS: TIER in bits 23:16, MODE in 27:24, ORD in 28. -/
theorem formatCS_getLsbD (bus : BitVec 4) (tier : BitVec 8) (ord : BitVec 1) (mode : BitVec 4) (op : BitVec 8)
    (k : Nat) :
    BitVec.getLsbD (w := 3 + 1 + 4 + 8 + 4 + 4 + 8) (0#3 ++ ord ++ mode ++ tier ++ 0#4 ++ bus ++ op) k =
      if k < 8 then op.getLsbD k else if k < 12 then bus.getLsbD (k - 8) else if k < 16 then false
      else if k < 24 then tier.getLsbD (k - 16) else if k < 28 then mode.getLsbD (k - 24)
      else if k < 29 then ord.getLsbD (k - 28) else false := by
  simp only [BitVec.getLsbD_append, BitVec.getLsbD_zero, Nat.sub_sub]
  grind

/-- Format CB: BYTE or TIER in bits 23:16. -/
theorem formatCB_getLsbD (bus : BitVec 4) (byte op : BitVec 8) (k : Nat) :
    BitVec.getLsbD (w := 8 + 8 + 4 + 4 + 8) (0#8 ++ byte ++ 0#4 ++ bus ++ op) k =
      if k < 8 then op.getLsbD k else if k < 12 then bus.getLsbD (k - 8) else if k < 16 then false
      else if k < 24 then byte.getLsbD (k - 16) else false := by
  simp only [BitVec.getLsbD_append, BitVec.getLsbD_zero, Nat.sub_sub]
  grind

/-- Format CF: FLAGS in bits 19:16. -/
theorem formatCF_getLsbD (bus flags : BitVec 4) (op : BitVec 8) (k : Nat) :
    BitVec.getLsbD (w := 12 + 4 + 4 + 4 + 8) (0#12 ++ flags ++ 0#4 ++ bus ++ op) k =
      if k < 8 then op.getLsbD k else if k < 12 then bus.getLsbD (k - 8) else if k < 16 then false
      else if k < 20 then flags.getLsbD (k - 16) else false := by
  simp only [BitVec.getLsbD_append, BitVec.getLsbD_zero, Nat.sub_sub]
  grind

end Sys2Proof
end

