-- ==== Sys2Proof/Laws/Flags.lean ====
section
/-! SUPPORT. What testing a register bit gives after setting, clearing or masking bits, and the names of the SPI and I2C
status flags as such tests. -/

namespace Sys2Proof.Machine

/-- A cleared bit tests 0, every other bit as before. -/
theorem testBit_clearBit (v : Word) (i j : Nat) :
    testBit (clearBit v i) j = (testBit v j && decide (i ≠ j)) := by
  unfold testBit clearBit bitMask
  by_cases hj : j < 32
  · simp only [BitVec.getLsbD_and, BitVec.getLsbD_not, hj, decide_true, Bool.true_and, BitVec.getLsbD_shiftLeft,
      BitVec.getLsbD_one]
    by_cases h : i = j
    · subst h; simp
    · by_cases hlt : j < i <;> simp [h, hlt]
      intro; omega
  · simp [BitVec.getLsbD_of_ge v j (by omega)]

/-- A set bit tests 1, every other bit as before. -/
theorem testBit_setBit (v : Word) (i j : Nat) (h : i < 32) :
    testBit (setBit v i) j = (testBit v j || decide (i = j)) := by
  unfold testBit setBit bitMask
  by_cases hj : j < 32
  · simp only [BitVec.getLsbD_or, BitVec.getLsbD_shiftLeft, hj, decide_true, Bool.true_and, BitVec.getLsbD_one]
    by_cases hij : i = j
    · subst hij; simp
    · by_cases hlt : j < i <;> simp [hij, hlt]
      intro; omega
  · have hne : i ≠ j := by omega
    simp [BitVec.getLsbD_of_ge v j (by omega), hne, BitVec.getLsbD_of_ge _ j (Nat.le_of_not_lt hj)]

/-- A bit of a masked register. -/
theorem testBit_and (v w : Word) (j : Nat) : testBit (v &&& w) j = (testBit v j && testBit w j) := by
  simp [testBit]

/-- Two registers with the same 32 bits are the same. -/
theorem eq_of_testBit_eq {v w : Word} (h : ∀ j, j < 32 → testBit v j = testBit w j) : v = w :=
  BitVec.eq_of_getLsbD_eq fun i hi => h i hi

/-- Only bits of the mask are 1, said bit by bit. -/
theorem testBit_eq_false_of_masked {m v : Word} (h : v &&& ~~~m = 0) {j : Nat} (hj : j < 32)
    (hm : testBit m j = false) : testBit v j = false := by
  have hz : testBit (v &&& ~~~m) j = false := by rw [h]; simp [testBit]
  rw [testBit_and] at hz
  have hn : testBit (~~~m) j = true := by
    unfold testBit at hm ⊢
    simp only [BitVec.getLsbD_not, hj, hm, decide_true, Bool.not_false, Bool.and_self]
  simpa [hn] using hz

end Sys2Proof.Machine
end

