-- ==== Sys2Proof/Laws/PerInstr.lean ====
section
/-! SUPPORT. The family of per-command lemmas: the word of a command has its row's OP byte and no reserved bit set. -/

namespace Sys2Proof.Laws.EncodeMatchesRow

/-- Under the row's mask the word of a command is the row's match column (R91, R94). -/
def Statement (i : Instr) : Prop := encode i &&& i.row.mask = i.row.matchWord

/-- The statement from the bits of the command's word. -/
theorem of_bits {i : Instr} {f : Nat → Bool} (hf : ∀ k, (encode i).getLsbD k = f k)
    (h : ∀ k, k < 32 → (f k && i.row.mask.getLsbD k) = i.row.matchWord.getLsbD k) : Statement i :=
  BitVec.eq_of_getLsbD_eq fun k hk => by rw [BitVec.getLsbD_and, hf, h k hk]

theorem spiBegin (bus : BitVec 4) (tier : BitVec 8) (ord : BitVec 1) (mode : BitVec 4) : Statement (.spiBegin bus tier ord mode) := by
  refine of_bits (formatCS_getLsbD bus tier ord mode 0x01) fun k hk => ?_
  interval_cases k <;> simp [Instr.row, Opcode.mask, Opcode.matchWord, Opcode.code]

theorem spiBeginSlave (bus : BitVec 4) (ord : BitVec 1) (mode : BitVec 4) : Statement (.spiBeginSlave bus ord mode) := by
  refine of_bits (formatCS_getLsbD bus 0 ord mode 0x02) fun k hk => ?_
  interval_cases k <;> simp [Instr.row, Opcode.mask, Opcode.matchWord, Opcode.code]

theorem spiEnd (bus : BitVec 4) : Statement (.spiEnd bus) := by
  refine of_bits (formatC0_getLsbD bus 0x03) fun k hk => ?_
  interval_cases k <;> simp [Instr.row, Opcode.mask, Opcode.matchWord, Opcode.code]

theorem spiRead (bus : BitVec 4) : Statement (.spiRead bus) := by
  refine of_bits (formatC0_getLsbD bus 0x04) fun k hk => ?_
  interval_cases k <;> simp [Instr.row, Opcode.mask, Opcode.matchWord, Opcode.code]

theorem spiWrite (bus : BitVec 4) : Statement (.spiWrite bus) := by
  refine of_bits (formatC0_getLsbD bus 0x05) fun k hk => ?_
  interval_cases k <;> simp [Instr.row, Opcode.mask, Opcode.matchWord, Opcode.code]

theorem spiTransfer (bus : BitVec 4) (byte : BitVec 8) : Statement (.spiTransfer bus byte) := by
  refine of_bits (formatCB_getLsbD bus byte 0x06) fun k hk => ?_
  interval_cases k <;> simp [Instr.row, Opcode.mask, Opcode.matchWord, Opcode.code]

theorem spiBaudCalc (bus : BitVec 4) (tier : BitVec 8) : Statement (.spiBaudCalc bus tier) := by
  refine of_bits (formatCB_getLsbD bus tier 0x07) fun k hk => ?_
  interval_cases k <;> simp [Instr.row, Opcode.mask, Opcode.matchWord, Opcode.code]

theorem i2cInit (bus : BitVec 4) : Statement (.i2cInit bus) := by
  refine of_bits (formatC0_getLsbD bus 0x10) fun k hk => ?_
  interval_cases k <;> simp [Instr.row, Opcode.mask, Opcode.matchWord, Opcode.code]

theorem i2cMasterEnable (bus flags : BitVec 4) : Statement (.i2cMasterEnable bus flags) := by
  refine of_bits (formatCF_getLsbD bus flags 0x11) fun k hk => ?_
  interval_cases k <;> simp [Instr.row, Opcode.mask, Opcode.matchWord, Opcode.code]

theorem i2cMasterXfer (bus : BitVec 4) : Statement (.i2cMasterXfer bus) := by
  refine of_bits (formatC0_getLsbD bus 0x12) fun k hk => ?_
  interval_cases k <;> simp [Instr.row, Opcode.mask, Opcode.matchWord, Opcode.code]

theorem i2cBusReset (bus : BitVec 4) : Statement (.i2cBusReset bus) := by
  refine of_bits (formatC0_getLsbD bus 0x13) fun k hk => ?_
  interval_cases k <;> simp [Instr.row, Opcode.mask, Opcode.matchWord, Opcode.code]

theorem i2cTimingCalc (bus flags : BitVec 4) : Statement (.i2cTimingCalc bus flags) := by
  refine of_bits (formatCF_getLsbD bus flags 0x14) fun k hk => ?_
  interval_cases k <;> simp [Instr.row, Opcode.mask, Opcode.matchWord, Opcode.code]

end Sys2Proof.Laws.EncodeMatchesRow
end

