-- ==== Sys2Proof/Laws/Runs.lean ====
section
/-! SUPPORT. Normal forms for a run of micro-steps of one command: the first state with one bus instance, the records, caller
memory and the running context replaced. Every operation of a meaning takes such a state to such a state, so a run is
simplified to one of them. -/

namespace Sys2Proof.Machine

/-- A run of one more micro-step: the first one and the rest. -/
theorem runExec_succ_eq_next {i : Instr} {n : Nat} {s t : State} (h : runExec i (n + 1) s = .next t) :
    ∃ u, exec i s = .next u ∧ runExec i n u = .next t :=
  andThen_eq_next.1 h

/-- `s` during a run of an SPI command: instance b is x, the records es are appended, memory is mm, the running context
is m. -/
def State.spiRun (s : State) (b : BusId) (x : SpiBus) (es : List BusEvent) (mm : Memory) (m : Ctx) : State :=
  (((s.setSpi b x).emitAll es).setMem mm).setMe m

/-- `s` during a run of an I2C command: instance b is x, the records es are appended, memory is mm, the running context
is m. -/
def State.i2cRun (s : State) (b : BusId) (x : I2cBus) (es : List BusEvent) (mm : Memory) (m : Ctx) : State :=
  (((s.setI2c b x).emitAll es).setMem mm).setMe m

theorem State.emitAll_nil (s : State) : s.emitAll [] = s := by simp [State.emitAll]

theorem State.setMem_self (s : State) : s.setMem s.mem = s := by rfl

theorem State.emitAll_emitAll (s : State) (es fs : List BusEvent) :
    (s.emitAll es).emitAll fs = s.emitAll (es ++ fs) := by simp [State.emitAll]

/-- Every state is in the SPI normal form of itself. -/
theorem State.spiRun_self (s : State) (b : BusId) : s.spiRun b (s.spiAt b) [] s.mem s.me = s := by
  simp [State.spiRun, State.emitAll_nil, State.setMem_self]

/-- Every state is in the I2C normal form of itself. -/
theorem State.i2cRun_self (s : State) (b : BusId) : s.i2cRun b (s.i2cAt b) [] s.mem s.me = s := by
  simp [State.i2cRun, State.emitAll_nil, State.setMem_self]

section Spi

variable {s : State} {b : BusId} {x y : SpiBus} {es : List BusEvent} {mm : Memory} {m : Ctx}

@[simp] theorem State.spiRun_plat : (s.spiRun b x es mm m).plat = s.plat := by rfl
@[simp] theorem State.spiRun_now : (s.spiRun b x es mm m).now = s.now := by rfl
@[simp] theorem State.spiRun_mem : (s.spiRun b x es mm m).mem = mm := by rfl
@[simp] theorem State.spiRun_turn : (s.spiRun b x es mm m).turn = s.turn := by rfl
@[simp] theorem State.spiRun_cur : (s.spiRun b x es mm m).cur = s.cur := by rfl
@[simp] theorem State.spiRun_spiAt : (s.spiRun b x es mm m).spiAt b = x := by simp [State.spiRun]

theorem State.spiRun_me (h : s.cur < s.ctxs.length) : (s.spiRun b x es mm m).me = m := by
  unfold State.spiRun; rw [State.me_setMe]; simpa using h

@[simp] theorem State.spiRun_setSpi : (s.spiRun b x es mm m).setSpi b y = s.spiRun b y es mm m := by
  simp [State.spiRun, State.setMem, State.emitAll, State.setSpi, State.setMe, State.setCtx, State.cur, State.turn]

@[simp] theorem State.spiRun_emit {e : BusEvent} :
    (s.spiRun b x es mm m).emit e = s.spiRun b x (es ++ [e]) mm m := by
  simp [State.spiRun, State.emit, State.emitAll, State.setMem, State.setMe, State.setCtx, State.setSpi, State.cur,
    State.turn]

@[simp] theorem State.spiRun_setMem {n : Memory} : (s.spiRun b x es mm m).setMem n = s.spiRun b x es n m := by rfl

@[simp] theorem State.spiRun_setMe {n : Ctx} : (s.spiRun b x es mm m).setMe n = s.spiRun b x es mm n := by
  simp [State.spiRun]

end Spi

section I2c

variable {s : State} {b : BusId} {x y : I2cBus} {es : List BusEvent} {mm : Memory} {m : Ctx}

@[simp] theorem State.i2cRun_plat : (s.i2cRun b x es mm m).plat = s.plat := by rfl
@[simp] theorem State.i2cRun_now : (s.i2cRun b x es mm m).now = s.now := by rfl
@[simp] theorem State.i2cRun_mem : (s.i2cRun b x es mm m).mem = mm := by rfl
@[simp] theorem State.i2cRun_turn : (s.i2cRun b x es mm m).turn = s.turn := by rfl
@[simp] theorem State.i2cRun_cur : (s.i2cRun b x es mm m).cur = s.cur := by rfl
@[simp] theorem State.i2cRun_i2cAt : (s.i2cRun b x es mm m).i2cAt b = x := by simp [State.i2cRun]

theorem State.i2cRun_me (h : s.cur < s.ctxs.length) : (s.i2cRun b x es mm m).me = m := by
  unfold State.i2cRun; rw [State.me_setMe]; simpa using h

@[simp] theorem State.i2cRun_setI2c : (s.i2cRun b x es mm m).setI2c b y = s.i2cRun b y es mm m := by
  simp [State.i2cRun, State.setMem, State.emitAll, State.setI2c, State.setMe, State.setCtx, State.cur, State.turn]

@[simp] theorem State.i2cRun_emit {e : BusEvent} :
    (s.i2cRun b x es mm m).emit e = s.i2cRun b x (es ++ [e]) mm m := by
  simp [State.i2cRun, State.emit, State.emitAll, State.setMem, State.setMe, State.setCtx, State.setI2c, State.cur,
    State.turn]

@[simp] theorem State.i2cRun_setMem {n : Memory} : (s.i2cRun b x es mm m).setMem n = s.i2cRun b x es n m := by rfl

@[simp] theorem State.i2cRun_setMe {n : Ctx} : (s.i2cRun b x es mm m).setMe n = s.i2cRun b x es mm n := by
  simp [State.i2cRun]

end I2c

end Sys2Proof.Machine
end

