-- ==== Sys2Proof/Laws/Step.lean ====
section
/-! SUPPORT. What one step of the machine can do, said once: the step of the chosen agent, then the choice is used up. -/

namespace Sys2Proof.Machine

/-- A step answers a next state exactly where the chosen agent's step does. -/
theorem step_eq_next {s t : State} : step s = .next t ↔ ∃ u, agentStep s = .next u ∧ t = u.advance := by
  unfold step
  rw [andThen_eq_next]
  simp only [Host.Outcome.next.injEq, eq_comm (a := t)]

/-- What the chosen agent can do (R10, R12, R179). -/
inductive AgentEffect (s : State) : State → Prop
  /-- Nothing: a context that does not exist, has halted, has nothing to issue or is stuck; an agent not enabled. -/
  | idle : AgentEffect s s
  /-- A micro-step of the running command. -/
  | command (i : Instr) (t : State) (hl : s.cur < s.ctxs.length) (hf : s.me.fault = none) (hp : s.me.pos ≠ .ready)
      (hi : decode s.me.issued.cmd = .ok i) (h : exec i s = .next t) : AgentEffect s t
  /-- A word that is no command: the context halts. -/
  | illegal (e : DecodeError) (hl : s.cur < s.ctxs.length) (hf : s.me.fault = none) (hp : s.me.pos ≠ .ready)
      (hi : decode s.me.issued.cmd = .error e) : AgentEffect s (s.halted .illegalCommand)
  /-- The caller issues its next command. -/
  | issue (p : Port) (rest : List CallerAct) (hl : s.cur < s.ctxs.length) (hf : s.me.fault = none)
      (hp : s.me.pos = .ready) (h : s.me.program = .issue p :: rest) :
      AgentEffect s (s.setMe { s.me.present p with program := rest })
  /-- The caller reads RES. -/
  | readRes (rest : List CallerAct) (hl : s.cur < s.ctxs.length) (hf : s.me.fault = none) (hp : s.me.pos = .ready)
      (h : s.me.program = .readRes :: rest) (hw : s.me.resWritten = true) :
      AgentEffect s (s.setMe { s.me with lastRead := s.me.res, program := rest })
  /-- The caller writes a byte of its own memory. -/
  | store (a : Word) (v : Byte) (rest : List CallerAct) (hl : s.cur < s.ctxs.length) (hf : s.me.fault = none)
      (hp : s.me.pos = .ready) (h : s.me.program = .store a v :: rest) (ha : allows s.plat a.toNat 1 = true) :
      AgentEffect s ((s.setMem (s.mem.write a.toNat v)).setMe { s.me with program := rest })
  /-- The caller writes its port registers. -/
  | port (p : Port) (hf : s.me.fault = none) : AgentEffect s (s.setMe { s.me with port := p })
  /-- A frame starts. -/
  | spiStart (b : BusId) (v : Byte) (hv : spiValid s.plat b = true) (h : (s.spiAt b).startEnabled = true) :
      AgentEffect s (s.setSpi b ((s.spiAt b).startFrame v))
  /-- A frame completes. -/
  | spiComplete (b : BusId) (v : Byte) (hv : spiValid s.plat b = true) (h : (s.spiAt b).completeEnabled = true) :
      AgentEffect s ((s.setSpi b ((s.spiAt b).receive v).afterFrame).emit ((s.spiAt b).frame b v))
  /-- An I2C peripheral steps. -/
  | i2c (b : BusId) (k : I2cStep) (v : Byte) (a : Bool) (hv : i2cValid s.plat b = true)
      (h : (s.i2cAt b).stepEnabled k = true) :
      AgentEffect s ((s.setI2c b ((s.i2cAt b).stepEffect k v a)).emitAll ((s.i2cAt b).stepEvents b k v a))
  /-- Time advances. -/
  | time : AgentEffect s { s with now := s.now + 1 }

theorem callerStep_effect {s t : State} (hl : s.cur < s.ctxs.length) (hf : s.me.fault = none) (hp : s.me.pos = .ready)
    (h : callerStep s = .next t) : AgentEffect s t := by
  unfold callerStep at h
  split at h
  · cases h; exact .idle
  · cases h; exact .issue _ _ hl hf hp ‹_›
  · split at h
    · cases h; exact .readRes _ hl hf hp ‹_› ‹_›
    · cases h
  · unfold memWrite8 at h
    rename_i a v rest hpr
    rcases memAccess_cases a.toNat 1 s (.next ((s.setMem (s.mem.write a.toNat v)).setMe
      { (s.setMem (s.mem.write a.toNat v)).me with program := rest })) with ⟨_, e⟩ | ⟨ha, e⟩
    · rw [e] at h; cases h; exact .idle
    · rw [e] at h; cases h; exact .store _ _ _ hl hf hp hpr ha

theorem ctxStep_effect {s t : State} (h : ctxStep s = .next t) : AgentEffect s t := by
  unfold ctxStep at h
  split at h
  · rename_i hl
    split at h
    · cases h; exact .idle
    · rename_i hf
      have hf : s.me.fault = none := by simpa using hf
      split at h
      · exact callerStep_effect hl hf ‹_› h
      · rename_i hp
        unfold commandStep at h
        split at h
        · exact .command _ _ hl hf hp ‹_› h
        · cases h; exact .illegal _ hl hf hp ‹_›
  · cases h; exact .idle

/-- Every next state of the chosen agent's step is one of these effects. -/
theorem agentStep_effect {s t : State} (h : agentStep s = .next t) : AgentEffect s t := by
  unfold agentStep at h
  split at h
  · exact ctxStep_effect h
  · cases h
    unfold portStep
    split
    · exact .idle
    · rename_i hf
      exact .port _ (by simpa [State.me] using hf)
  · cases h
    unfold spiStartStep
    split
    · rename_i hb; simp only [Bool.and_eq_true] at hb; exact .spiStart _ _ hb.1 hb.2
    · exact .idle
  · cases h
    unfold spiCompleteStep
    split
    · rename_i hb; simp only [Bool.and_eq_true] at hb; exact .spiComplete _ _ hb.1 hb.2
    · exact .idle
  · cases h
    unfold i2cPerStep
    dsimp only
    split
    · rename_i hb; simp only [Bool.and_eq_true] at hb; exact .i2c _ _ _ _ hb.1 hb.2
    · exact .idle
  · cases h; exact .time

/-- Every next state of a step is one of these effects, with the choice used up. -/
theorem step_effect {s t : State} (h : step s = .next t) : ∃ u, AgentEffect s u ∧ t = u.advance := by
  obtain ⟨u, hu, rfl⟩ := step_eq_next.1 h
  exact ⟨u, agentStep_effect hu, rfl⟩

end Sys2Proof.Machine
end

