-- ==== Sys2Proof/Tests/Slice0.lean ====
section
/-! SUPPORT. Tests: ill-formed operands refused, a word of every command decoded, single micro-steps with the values of the
spec's own tables and worked examples, and for every statement of Certificates/Slice0/Obligations.lean that has hypotheses
a concrete state that meets them. -/

namespace Sys2Proof.Tests

open Sys2Proof.Machine

/-! ## Well-formedness refuses -/

theorem test_bus_0_ill_formed : (Instr.spiEnd 0).wf = false := by decide
theorem test_bus_4_ill_formed : (Instr.i2cMasterXfer 4).wf = false := by decide
theorem test_mode_4_ill_formed : (Instr.spiBegin 1 4 1 4).wf = false := by decide
theorem test_slave_mode_4_ill_formed : (Instr.spiBeginSlave 2 0 4).wf = false := by decide
theorem test_tier_8_ill_formed : (Instr.spiBaudCalc 2 8).wf = false := by decide
theorem test_tier_7_of_bus_1_ill_formed : (Instr.spiBegin 1 7 1 0).wf = false := by decide
theorem test_remap_of_bus_2_ill_formed : (Instr.i2cMasterEnable 2 0b0100).wf = false := by decide
theorem test_well_formed : (Instr.spiBegin 2 7 1 3).wf = true ∧ (Instr.i2cMasterEnable 1 0b1111).wf = true := by decide

/-! ## Words written out from the encodings of R86 to R91 -/

theorem test_decode_spiBegin :
    decode 0b000_1_0011_00000100_0000_0001_00000001 = .ok (.spiBegin 1 4 1 3) := by rfl
theorem test_decode_spiBeginSlave :
    decode 0b000_0_0010_00000000_0000_0010_00000010 = .ok (.spiBeginSlave 2 0 2) := by rfl
theorem test_decode_spiEnd : decode 0b00000000000000000000_0011_00000011 = .ok (.spiEnd 3) := by rfl
theorem test_decode_spiRead : decode 0b00000000000000000000_0001_00000100 = .ok (.spiRead 1) := by rfl
theorem test_decode_spiWrite : decode 0b00000000000000000000_1111_00000101 = .ok (.spiWrite 15) := by rfl
theorem test_decode_spiTransfer : decode 0b00000000_10100101_0000_0001_00000110 = .ok (.spiTransfer 1 0xA5) := by rfl
theorem test_decode_spiBaudCalc : decode 0b00000000_11111111_0000_0010_00000111 = .ok (.spiBaudCalc 2 255) := by rfl
theorem test_decode_i2cInit : decode 0b00000000000000000000_0001_00010000 = .ok (.i2cInit 1) := by rfl
theorem test_decode_i2cMasterEnable :
    decode 0b000000000000_1001_0000_0001_00010001 = .ok (.i2cMasterEnable 1 0b1001) := by rfl
theorem test_decode_i2cMasterXfer : decode 0b00000000000000000000_0010_00010010 = .ok (.i2cMasterXfer 2) := by rfl
theorem test_decode_i2cBusReset : decode 0b00000000000000000000_0001_00010011 = .ok (.i2cBusReset 1) := by rfl
theorem test_decode_i2cTimingCalc :
    decode 0b000000000000_0011_0000_0010_00010100 = .ok (.i2cTimingCalc 2 0b0011) := by rfl
/-- A set bit that the slave format reserves (TIER), bit 20 of format CF, and an unassigned OP. -/
theorem test_decode_refuses : decode 0x03010202 = .error .reservedBits ∧ decode 0x00100111 = .error .reservedBits ∧
    decode 0x00000115 = .error .illegalOpcode := ⟨rfl, rfl, rfl⟩

/-! ## A small machine -/

/-- A platform with every bus and all of the address space admitted. -/
def bench : Platform where
  highDensity := true
  i2c3Present := true
  spiBase     := { b1 := 0x40013000, b2 := 0x40003800, b3 := 0x40003C00 }
  i2cBase     := { b1 := 0x40005400, b2 := 0x40005800, b3 := 0x40005C00 }
  blockExtra  := 0
  admitted    := [{ base := 0, size := 0x100000000, width := 1 }, { base := 0, size := 0x100000000, width := 2 },
    { base := 0, size := 0x100000000, width := 4 }]

/-- R76 on the bases of R78: disjoint blocks of 0x400 bytes, and no longer disjoint at 0x401. -/
theorem test_blocks_apart : blocksApart bench = true ∧ blocksApart { bench with blockExtra := 0x3DC } = true ∧
    blocksApart { bench with blockExtra := 0x3DD } = false ∧
    blocksApart { bench with i2cBase := bench.spiBase } = false := by decide

/-- An enabled SPI master, TIER 4, mode 0, MSB-first (R120). -/
def spiOn : SpiBus := { SpiBus.reset with cr1 := 0x036C, pins := .spiMaster }

/-- An enabled I2C master in standard mode (R143). -/
def i2cOn : I2cBus :=
  { I2cBus.reset .b1 with
    cr1 := 0x0001, cr2 := 0x24, ccr := 0x00B4, trise := 0x25, pins := .i2cAF false
    gpioScl := true, gpioSda := true, dev := { Dev.reset with state := .idle } }

/-- A context that runs the command word `w` at a position. -/
def running (p : Pos) (w : Word := 0) (arg0 : Word := 0) (arg1 : Word := 0) : Ctx :=
  { Ctx.reset with issued := { cmd := w, arg0 := arg0, arg1 := arg1, arg2 := 0 }, pos := p }

/-- A caller with acts to do and no command running. -/
def calling (acts : List CallerAct) (written : Bool := true) : Ctx :=
  { Ctx.reset with program := acts, resWritten := written, res := 0x77 }

/-- One context, every SPI and every I2C instance the same, and the choice for the coming step. -/
def lab (c : Ctx) (x : SpiBus := spiOn) (y : I2cBus := i2cOn) (m : Memory := []) (turn : Turn := .ofCtx 0)
    (rest : List Turn := []) : State where
  ctxs   := [c]
  spi    := { b1 := x, b2 := x, b3 := x }
  i2c    := { b1 := y, b2 := y, b3 := y }
  now    := 0
  events := []
  mem    := m
  plat   := bench
  env    := turn :: rest
  seq    := 0

theorem lab_runsAt {p : Pos} {w arg0 arg1 : Word} {x : SpiBus} {y : I2cBus} {m : Memory} {rest : List Turn} {bit : Bool} :
    RunsAt (lab (running p w arg0 arg1) x y m (.ofCtx 0 bit) rest) p := ⟨by show 0 < 1; decide, rfl, rfl⟩

/-- The outcome is a next state of which `f` holds. -/
def gives (r : Result) (f : State → Bool) : Bool :=
  match r with
  | .next t => f t
  | .fault _ => false
  | .refused _ => false

/-! ## Single micro-steps -/

/-- The table of R120 at mode 3, MSB-first: 0x036F, of which the write with SPE = 0 is 0x032F. -/
theorem test_spiBegin_writes_cr1 :
    gives (exec (.spiBegin 1 4 1 3) (lab (running (.cfg .writeCr1)) (x := SpiBus.reset)))
      (fun t => (t.spiAt .b1).cr1 == 0x032F) = true := by decide
theorem test_spiBegin_enables :
    gives (exec (.spiBegin 1 4 1 3) (lab (running (.cfg .enable)) (x := { SpiBus.reset with cr1 := 0x032F })))
      (fun t => (t.spiAt .b1).cr1 == 0x036F && t.me.pos == .ret) = true := by decide
/-- R121: LSB-first mode 3 is 0x00C3 with SPE, 0x0083 without. -/
theorem test_spiBeginSlave_writes_cr1 :
    gives (exec (.spiBeginSlave 2 0 3) (lab (running (.cfg .writeCr1)) (x := SpiBus.reset)))
      (fun t => (t.spiAt .b2).cr1 == 0x0083) = true := by decide
/-- R124, R60: the drain read of SR = 0x0043 finds a byte, and does not clear OVR. -/
theorem test_spiEnd_drain_finds_a_byte :
    gives (exec (.spiEnd 1) (lab (running (.ending .drain)) (x := { spiOn with sr := 0x0043 })))
      (fun t => (t.spiAt .b1).sr == 0x0043 && t.me.pos == .ending .discard) = true := by decide
theorem test_spiEnd_disables :
    gives (exec (.spiEnd 1) (lab (running (.ending .disable)))) (fun t => (t.spiAt .b1).cr1 == 0x032C) = true := by
  decide
/-- R127: the byte 0x3C at 0x20000000. -/
theorem test_spiRead_stores :
    gives (exec (.spiRead 1) (lab (running (.reading (.store 0 0x3C)) (arg0 := 0x20000000) (arg1 := 1))))
      (fun t => t.mem == [(0x20000000, 0x3C)] && t.me.pos == .ret) = true := by decide
theorem test_spiWrite_hands_off :
    gives (exec (.spiWrite 1) (lab (running (.writing (.data 0 0 0x42)) (arg1 := 1))))
      (fun t => (t.spiAt .b1).txbuf == 0x42 && (t.spiAt .b1).sr == 0) = true := by decide
theorem test_spiTransfer_result :
    gives (exec (.spiTransfer 1 0xA5) (lab (running (.transfer (.result 0x5A)))))
      (fun t => t.me.res == 0x5A && t.me.resWritten) = true := by decide
/-- R103: tier 4 on SPI1 is BR code 5; tier 255 is no tier, not a wrapped code. -/
theorem test_spiBaudCalc_bus_1 :
    gives (exec (.spiBaudCalc 1 4) (lab (running .start))) (fun t => t.me.res == 5) = true := by decide
theorem test_spiBaudCalc_no_tier :
    gives (exec (.spiBaudCalc 1 255) (lab (running .start 0x00FF0107)))
      (fun t => t.me.fault == some { kind := .invalidTier, cmd := 0x00FF0107, bus := 1 }) = true := by decide
/-- R141: TRISE resets to 2. -/
theorem test_i2cInit_resets :
    gives (exec (.i2cInit 1) (lab (running (.init .reset))))
      (fun t => (t.i2cAt .b1).trise == 2 && (t.i2cAt .b1).cr1 == 0 && (t.i2cAt .b1).pins == .i2cAF false) = true := by
  decide
/-- R109: fast mode with DUTY at 36 MHz is CCR 0xC004. -/
theorem test_i2cMasterEnable_writes_ccr :
    gives (exec (.i2cMasterEnable 1 0b0011) (lab (running (.enabling .ccr)) (y := { i2cOn with cr1 := 0 })))
      (fun t => (t.i2cAt .b1).ccr == 0xC004) = true := by decide
theorem test_i2cMasterEnable_remap_of_bus_2 :
    gives (exec (.i2cMasterEnable 2 0b0100) (lab (running .start 0x00040211)))
      (fun t => t.me.fault == some { kind := .invalidFlags, cmd := 0x00040211, bus := 2 }) = true := by decide
/-- R154: a device that is Disabled gives -3. -/
theorem test_i2cMasterXfer_disabled :
    gives (exec (.i2cMasterXfer 1) (lab (running .start) (y := { i2cOn with dev := Dev.reset })))
      (fun t => t.me.res == 0xFFFFFFFD && t.me.pos == .ready && t.i2c == (lab t.me (y := { i2cOn with dev := Dev.reset })).i2c)
      = true := by decide
/-- R168: BERR and AF seen together are the error flags 0x0500. -/
theorem test_i2cMasterXfer_error_flags :
    gives (exec (.i2cMasterXfer 1) (lab (running (.xfer default (.faultFlags 0x05C0)))))
      (fun t => (t.i2cAt .b1).dev.errorFlags == 0x0500) = true := by decide
theorem test_i2cBusReset_releases_scl :
    gives (exec (.i2cBusReset 1) (lab (running .start))) (fun t => t.events == [.gpio .b1 .scl true]) = true := by
  decide
theorem test_i2cTimingCalc_fast_duty :
    gives (exec (.i2cTimingCalc 2 0b0011) (lab (running .start))) (fun t => t.me.res == 0x240BC004) = true := by decide
/-- R186: the frame of an LSB-first mode 3 master is recorded with both. -/
theorem test_frame_record :
    gives (step (lab (running .start) (x := { spiOn with cr1 := 0x03EF, sr := 0x0082, shTx := 0xA5 })
        (turn := .ofAgent (.spiComplete .b1) 0x5A)))
      (fun t => t.events == [.spiFrame .b1 .master 0xA5 0x5A true 3] && (t.spiAt .b1).rxbuf == 0x5A) = true := by decide
/-- The first step from power-on runs the word that is placed: I2C.MASTER_XFER on a Disabled device gives -3. -/
theorem test_step_runs_placed_word :
    gives (step (State.reset.withFetchWord 32 0x00000112)) (fun t => (t.ctxAt 0).res == 0xFFFFFFFD) = true := by decide

/-! ## Witnesses: the hypotheses of every statement can be met -/

theorem witness_EncodeOfDecode : decode 0x10040101 = .ok (.spiBegin 1 4 1 0) := by rfl

theorem witness_IllegalWordsHalt_opcode : (lab (running .start 0x00000108)).turn.agent = .ctx ∧
    RunsAt (lab (running .start 0x00000108)) .start ∧ illegalOp 0x00000108 = true ∧ illegalOp 0 = true ∧
    illegalOp 0x10F = true ∧ illegalOp 0x115 = true ∧ illegalOp 0x1FF = true := by
  refine ⟨rfl, lab_runsAt, ?_⟩; decide
theorem witness_IllegalWordsHalt_reserved : RunsAt (lab (running .start 0x00001103)) .start ∧
    reservedBitSet 0x00001103 = true ∧ reservedBitSet 0x30040101 = true ∧ reservedBitSet 0x03010202 = true ∧
    reservedBitSet 0x01000107 = true ∧ reservedBitSet 0x00100111 = true := by
  refine ⟨lab_runsAt, ?_⟩; decide

theorem witness_StepRunsTheDecodedCommand : (lab (running .ret 0x00000103)).turn.agent = .ctx ∧
    (lab (running .ret 0x00000103)).cur < (lab (running .ret 0x00000103)).ctxs.length ∧
    (lab (running .ret 0x00000103)).me.fault = none ∧ (lab (running .ret 0x00000103)).me.pos ≠ .ready ∧
    decode (lab (running .ret 0x00000103)).me.issued.cmd = .ok (.spiEnd 1) := by
  refine ⟨rfl, ?_, rfl, ?_, rfl⟩ <;> decide

/-- A context that has halted. -/
def haltedCtx : Ctx := { running .start with fault := some { kind := .invalidBus, cmd := 0x00000403, bus := 4 } }

theorem witness_HaltedContextNeverChanges :
    (∃ t, step (lab haltedCtx) = .next t) ∧ ((lab haltedCtx).ctxAt 0).fault.isSome = true := ⟨⟨_, rfl⟩, rfl⟩

theorem witness_IssueTakesASnapshot_issue :
    (lab (calling [.issue Port.reset])).turn.agent = .ctx ∧ RunsAt (lab (calling [.issue Port.reset])) .ready ∧
    (lab (calling [.issue Port.reset])).me.program = [.issue Port.reset] :=
  ⟨rfl, ⟨by decide, rfl, rfl⟩, rfl⟩
theorem witness_IssueTakesASnapshot_running :
    (∃ t, step (lab (running .ret 0x00000103)) = .next t) ∧ ((lab (running .ret 0x00000103)).ctxAt 0).pos ≠ .ready := by
  refine ⟨⟨_, rfl⟩, ?_⟩; decide
theorem witness_IssueTakesASnapshot_port :
    (lab (running .ret) (turn := .ofAgent (.port 1 2 3 4))).turn.agent = .port 1 2 3 4 ∧
    (lab (running .ret) (turn := .ofAgent (.port 1 2 3 4))).me.fault = none := ⟨rfl, rfl⟩

theorem witness_ResWrittenByFourCommands_command : (∃ t, exec (.spiEnd 1) (lab (running .ret)) = .next t) ∧
    (Instr.spiEnd 1).writesRes = false ∧ 1 ≠ (lab (running .ret)).cur := by
  refine ⟨⟨_, rfl⟩, rfl, ?_⟩; decide
theorem witness_ResWrittenByFourCommands_unwritten : (lab (calling [.readRes] false)).turn.agent = .ctx ∧
    RunsAt (lab (calling [.readRes] false)) .ready ∧ (lab (calling [.readRes] false)).me.program = [.readRes] ∧
    (lab (calling [.readRes] false)).me.resWritten = false := ⟨rfl, ⟨by decide, rfl, rfl⟩, rfl, rfl⟩
theorem witness_ResWrittenByFourCommands_written : (lab (calling [.readRes])).turn.agent = .ctx ∧
    RunsAt (lab (calling [.readRes])) .ready ∧ (lab (calling [.readRes])).me.program = [.readRes] ∧
    (lab (calling [.readRes])).me.resWritten = true := ⟨rfl, ⟨by decide, rfl, rfl⟩, rfl, rfl⟩

/-- Below, above and, without the third buses, at the edge of the bus identifiers. -/
theorem witness_UnknownBusHalts : spiBusOf bench 0 = none ∧ spiBusOf bench 4 = none ∧ i2cBusOf bench 0 = none ∧
    i2cBusOf bench 4 = none ∧ spiBusOf { bench with highDensity := false } 3 = none ∧
    i2cBusOf { bench with i2c3Present := false } 3 = none := by decide

theorem witness_ConcurrentUseHalts_spi :
    RunsAt (lab (running .start) (x := { spiOn with inflight := some 1 })) .start ∧ (Instr.spiEnd 1).accesses = true ∧
    (Instr.spiEnd 1).isSpi = true ∧ spiBusOf bench (Instr.spiEnd 1).bus = some .b1 ∧
    ((lab (running .start) (x := { spiOn with inflight := some 1 })).spiAt .b1).inflight = some 1 :=
  ⟨lab_runsAt, rfl, rfl, rfl, rfl⟩
theorem witness_ConcurrentUseHalts_i2c :
    RunsAt (lab (running .start) (y := { i2cOn with inflight := some 1 })) .start ∧
    (Instr.i2cMasterXfer 1).accesses = true ∧ (Instr.i2cMasterXfer 1).isSpi = false ∧
    i2cBusOf bench (Instr.i2cMasterXfer 1).bus = some .b1 ∧
    ((lab (running .start) (y := { i2cOn with inflight := some 1 })).i2cAt .b1).inflight = some 1 ∧
    ((lab (running .start) (y := { i2cOn with inflight := some 1 })).i2cAt .b1).dev.state ≠ .busy ∧
    ((lab (running .start) (y := { i2cOn with inflight := some 1 })).i2cAt .b1).dev.state ≠ .disabled := by
  refine ⟨lab_runsAt, rfl, rfl, rfl, rfl, ?_, ?_⟩ <;> decide
theorem witness_ConcurrentUseHalts_busy :
    RunsAt (lab (running .start) (y := { i2cOn with dev := { Dev.reset with state := .busy } })) .start ∧
    ((lab (running .start) (y := { i2cOn with dev := { Dev.reset with state := .busy } })).i2cAt .b2).dev.state = .busy ∧
    i2cBusOf bench 2 = some .b2 := ⟨lab_runsAt, rfl, rfl⟩

theorem witness_InvalidOperandsHalt_spi : RunsAt (lab (running .start)) .start ∧ spiBusOf bench 1 = some .b1 ∧
    ((lab (running .start)).spiAt .b1).inflight = none ∧ 4 ≤ (4#4).toNat ∧ (3#4).toNat < 4 ∧ 8 ≤ (8#8).toNat := by
  refine ⟨lab_runsAt, rfl, rfl, ?_⟩; decide
theorem witness_InvalidOperandsHalt_remap : RunsAt (lab (running .start)) .start ∧ i2cBusOf bench 2 = some .b2 ∧
    ((lab (running .start)).i2cAt .b2).inflight = none ∧ (0b0100#4).getLsbD 2 = true ∧ BusId.b2 ≠ .b1 := by
  refine ⟨lab_runsAt, rfl, rfl, rfl, ?_⟩; decide

theorem witness_SpiBaudTable : 8 ≤ (8#8).toNat := by decide

theorem witness_SpiClockIsTheNominalOne : spiBaud (Config.spiDomain .b2) 7 = .ok 7 ∧
    spiBaud (Config.spiDomain .b1) 6 = .ok 7 ∧ spiBaud (Config.spiDomain .b1) 0 = .ok 1 := ⟨rfl, rfl, rfl⟩

theorem witness_CalculatorsReturnTheirValue :
    RunsAt (lab (running .start) (x := { spiOn with inflight := some 1 })) .start ∧ spiBusOf bench 2 = some .b2 ∧
    spiBaud (Config.spiDomain .b2) 7 = .ok 7 ∧ i2cBusOf bench 1 = some .b1 := ⟨lab_runsAt, rfl, rfl, rfl⟩

/-- Also of SpiBeginSlaveConfiguresTheSlave. -/
theorem witness_SpiBeginConfiguresTheMaster : RunsAt (lab (running .start)) .start ∧ spiBusOf bench 1 = some .b1 ∧
    ((lab (running .start)).spiAt .b1).inflight = none ∧ (3#4).toNat < 4 ∧ spiBaud (Config.spiDomain .b1) 6 = .ok 7 ∧
    ((lab (running .start)).spiAt .b1).spe = true ∧ ((lab (running .start)).spiAt .b1).shActive = false ∧
    ((lab (running .start)).spiAt .b1).txe = true := ⟨lab_runsAt, rfl, rfl, by decide, rfl, rfl, rfl, rfl⟩

theorem witness_BeginTableOfCr1 : RunsAt (lab (running .start)) .start ∧ spiBusOf bench 2 = some .b2 ∧ BusId.b2 ≠ .b3 ∧
    ((lab (running .start)).spiAt .b2).inflight = none ∧ (3#4).toNat < 4 ∧
    ((lab (running .start)).spiAt .b2).spe = true ∧ ((lab (running .start)).spiAt .b2).shActive = false ∧
    ((lab (running .start)).spiAt .b2).txe = true :=
  ⟨lab_runsAt, rfl, by decide, rfl, by decide, rfl, rfl, rfl⟩

/-- Busy by a frame in flight, and by a byte waiting to be sent. -/
theorem witness_DisableWhileBusyHalts : spiBusOf bench 1 = some .b1 ∧
    ((lab (running .start) (x := { spiOn with sr := 0x0082 })).spiAt .b1).spe = true ∧
    ((lab (running .start) (x := { spiOn with sr := 0x0082 })).spiAt .b1).shActive = true ∧
    ((lab (running (.ending .disable)) (x := { spiOn with sr := 0 })).spiAt .b1).txe = false ∧
    RunsAt (lab (running .start) (x := { spiOn with sr := 0x0082 })) .start ∧
    ((lab (running .start) (x := { spiOn with sr := 0x0082 })).spiAt .b1).inflight = none ∧
    RunsAt (lab (running (.ending .disable)) (x := { spiOn with sr := 0 })) (.ending .disable) :=
  ⟨rfl, rfl, rfl, rfl, lab_runsAt, rfl, lab_runsAt⟩

theorem witness_SpiEndOnDisabledIsANoOp : RunsAt (lab (running .start) (x := SpiBus.reset)) .start ∧
    spiBusOf bench 1 = some .b1 ∧ ((lab (running .start) (x := SpiBus.reset)).spiAt .b1).inflight = none ∧
    ((lab (running .start) (x := SpiBus.reset)).spiAt .b1).spe = false := ⟨lab_runsAt, rfl, rfl, rfl⟩
theorem witness_SpiEndDrainsAndDisables_empty : RunsAt (lab (running .start)) .start ∧ ((lab (running .start)).spiAt .b1).spe = true ∧
    ((lab (running .start)).spiAt .b1).txe = true ∧ ((lab (running .start)).spiAt .b1).shActive = false ∧
    ((lab (running .start)).spiAt .b1).rxne = false := ⟨lab_runsAt, rfl, rfl, rfl, rfl⟩
theorem witness_SpiEndDrainsAndDisables_unread : ((lab (running .start) (x := { spiOn with sr := 0x0043 })).spiAt .b1).rxne = true ∧
    ((lab (running .start) (x := { spiOn with sr := 0x0043 })).spiAt .b1).txe = true ∧
    ((lab (running .start) (x := { spiOn with sr := 0x0043 })).spiAt .b1).shActive = false := ⟨rfl, rfl, rfl⟩
theorem witness_SpiEndKeepsItsOrder (p : EndPos) : RunsAt (lab (running (.ending p))) (.ending p) ∧
    spiBusOf bench 1 = some .b1 ∧ ∃ t, exec (.spiEnd 1) (lab (running (.ending p))) = .next t := by
  refine ⟨lab_runsAt, rfl, ?_⟩; cases p <;> exact ⟨_, rfl⟩

theorem witness_LengthZeroReturnsAtOnce : RunsAt (lab (running .start)) .start ∧ spiBusOf bench 1 = some .b1 ∧
    ((lab (running .start)).spiAt .b1).inflight = none ∧ (lab (running .start)).me.issued.arg1 = 0 :=
  ⟨lab_runsAt, rfl, rfl, rfl⟩

/-- The highest address of the address space as the one byte of the buffer. -/
theorem witness_SpiReadStoresTheByte : spiBusOf bench 1 = some .b1 ∧
    ((lab (running .start 0 0xFFFFFFFF 1) (x := { spiOn with sr := 0x0003 })).spiAt .b1).rxne = true ∧
    RunsAt (lab (running (.reading (.wait 0)) 0 0xFFFFFFFF 1) (x := { spiOn with sr := 0x0003 })) (.reading (.wait 0)) ∧
    RunsAt (lab (running .start 0 0xFFFFFFFF 1) (x := { spiOn with sr := 0x0003 })) .start ∧
    ((lab (running .start 0 0xFFFFFFFF 1) (x := { spiOn with sr := 0x0003 })).spiAt .b1).inflight = none ∧
    (lab (running .start 0 0xFFFFFFFF 1) (x := { spiOn with sr := 0x0003 })).me.issued.arg1 = 1 ∧
    allows bench 0xFFFFFFFF 1 = true := ⟨rfl, rfl, lab_runsAt, lab_runsAt, rfl, rfl, by decide⟩

/-- The state of `MasterReadWaitsForEver`: context 1 owns a master with nothing received, sent or in flight; context 0, whose
step it is, is about to run SPI.END on the same bus. -/
def readWaiting : State :=
  { lab haltedCtx (x := { spiOn with inflight := some 1 }) with
    ctxs := [running .start 0x00000103, running (.reading (.wait 0)) 0x00000104 0x20000000 1] }

theorem witness_MasterReadWaitsForEver : ReadWaits readWaiting 1 .b1 0 ∧ ∃ t, step readWaiting = .next t := by
  refine ⟨⟨⟨1, rfl, rfl⟩, rfl, rfl, rfl, ?_, rfl, rfl, rfl, rfl⟩, _, rfl⟩
  intro d i hd hi h
  match d, hd with
  | 0, _ =>
    have hw : decode (readWaiting.ctxAt 0).issued.cmd = .ok (.spiEnd 1) := rfl
    rw [hw] at hi
    cases hi
    cases h
  | n + 2, _ =>
    have hw : decode (readWaiting.ctxAt (n + 2)).issued.cmd = .error .illegalOpcode := rfl
    rw [hw] at hi
    cases hi

theorem witness_SpiWriteHandsOffTheByte_byte : RunsAt (lab (running (.writing (.status 0 0)) 0 0xFFFFFFFF 1))
    (.writing (.status 0 0)) ∧ ((lab (running (.writing (.status 0 0)) 0 0xFFFFFFFF 1)).spiAt .b1).txe = true ∧
    0 < (lab (running (.writing (.status 0 0)) 0 0xFFFFFFFF 1)).me.issued.arg1.toNat - 0 ∧
    allows bench 0xFFFFFFFF 1 = true := ⟨lab_runsAt, rfl, by decide, by decide⟩
theorem witness_SpiWriteHandsOffTheByte_returns :
    RunsAt (lab (running (.writing (.status 0 1)) 0 0x20000000 1)) (.writing (.status 0 1)) ∧
    (lab (running (.writing (.status 0 1)) 0 0x20000000 1)).me.issued.arg1.toNat - 0 ≤ 1 ∧
    RunsAt (lab (running (.writing (.status 0 0)) 0 0 1) (x := { spiOn with sr := 0 })) (.writing (.status 0 0)) ∧
    ((lab (running (.writing (.status 0 0)) 0 0 1) (x := { spiOn with sr := 0 })).spiAt .b1).txe = false :=
  ⟨lab_runsAt, by decide, lab_runsAt, rfl⟩
theorem witness_SpiWriteHandsOffTheByte_whole : RunsAt (lab (running .start 0 0x20000000 1) (x := SpiBus.reset)) .start ∧
    spiBusOf bench 1 = some .b1 ∧ ((lab (running .start 0 0x20000000 1) (x := SpiBus.reset)).spiAt .b1).inflight = none ∧
    (lab (running .start 0 0x20000000 1) (x := SpiBus.reset)).me.issued.arg1 = 1 ∧
    ((lab (running .start 0 0x20000000 1) (x := SpiBus.reset)).spiAt .b1).txe = true ∧
    allows bench 0x20000000 1 = true := ⟨lab_runsAt, rfl, rfl, rfl, rfl, by decide⟩

theorem witness_SpiTransferReturnsTheStaleByte : RunsAt (lab (running .start) (x := { spiOn with sr := 0x0003 })) .start ∧
    spiBusOf bench 1 = some .b1 ∧ ((lab (running .start) (x := { spiOn with sr := 0x0003 })).spiAt .b1).inflight = none ∧
    ((lab (running .start) (x := { spiOn with sr := 0x0003 })).spiAt .b1).txe = true ∧
    ((lab (running .start) (x := { spiOn with sr := 0x0003 })).spiAt .b1).rxne = true :=
  ⟨lab_runsAt, rfl, rfl, rfl, rfl⟩

/-- The choices of `SpiTransferExchangesAByte` after the first. -/
def exchangeTurns : List Turn :=
  [.ofCtx 0, .ofAgent (.spiStart .b1), .ofAgent (.spiComplete .b1) 0x5A, .ofCtx 0, .ofCtx 0, .ofCtx 0, .ofCtx 0, .ofCtx 0]

theorem witness_SpiTransferExchangesAByte :
    (lab (running .start 0x00A50106) (rest := exchangeTurns)).env =
      [.ofCtx 0, .ofCtx 0, .ofAgent (.spiStart .b1), .ofAgent (.spiComplete .b1) 0x5A, .ofCtx 0, .ofCtx 0, .ofCtx 0,
        .ofCtx 0, .ofCtx 0] ++ [] ∧
    RunsAt (lab (running .start 0x00A50106) (rest := exchangeTurns)) .start ∧
    decode 0x00A50106 = .ok (.spiTransfer 1 0xA5) ∧ spiBusOf bench 1 = some .b1 ∧ spiOn.inflight = none ∧
    spiOn.spe = true ∧ spiOn.mstr = true ∧ spiOn.txe = true ∧ spiOn.shActive = false ∧ spiOn.rxne = false :=
  ⟨rfl, lab_runsAt, rfl, rfl, rfl, rfl, rfl, rfl, rfl, rfl⟩

/-- A slave with nothing written (underrun), and a master with a byte waiting, whose step puts a frame in the shifter. -/
theorem witness_FrameStartTakesTheByte :
    (lab (running .ret) (x := { spiOn with cr1 := 0x0043 }) (turn := .ofAgent (.spiStart .b1))).turn.agent = .spiStart .b1 ∧
    spiValid bench .b1 = true ∧ { spiOn with cr1 := 0x0043 }.spe = true ∧
    { spiOn with cr1 := 0x0043 }.shActive = false ∧ { spiOn with cr1 := 0x0043 }.mstr = false ∧
    { spiOn with sr := 0 }.mstr = true ∧ { spiOn with sr := 0 }.txe = false ∧
    ∃ t, step (lab (running .ret) (x := { spiOn with sr := 0 }) (turn := .ofAgent (.spiStart .b1))) = .next t ∧
      (t.spiAt .b1).shActive = true := ⟨rfl, rfl, rfl, rfl, rfl, rfl, rfl, _, rfl, by decide⟩

theorem witness_FrameCompletionDeliversTheByte :
    (lab (running .ret) (x := { spiOn with sr := 0x0083 }) (turn := .ofAgent (.spiComplete .b3))).turn.agent =
      .spiComplete .b3 ∧ spiValid bench .b3 = true ∧ { spiOn with sr := 0x0083 }.spe = true ∧
    { spiOn with sr := 0x0083 }.shActive = true := ⟨rfl, rfl, rfl, rfl⟩

theorem witness_I2cInitResetsTheInstance : RunsAt (lab (running .start)) .start ∧ i2cBusOf bench 3 = some .b3 ∧
    ((lab (running .start)).i2cAt .b3).inflight = none := ⟨lab_runsAt, rfl, rfl⟩

/-- Also of MasterEnableWithBusReset (whose later clauses have the witness of BusResetSequence) and PeripheralDisable. -/
theorem witness_MasterEnableProgramsTheTiming : RunsAt (lab (running .start)) .start ∧ i2cBusOf bench 1 = some .b1 ∧
    ((lab (running .start)).i2cAt .b1).inflight = none ∧ (0b0111#4).getLsbD 3 = false ∧ (0b1111#4).getLsbD 3 = true ∧
    i2cTiming .b1 0b0111 = .ok { freq := 36, ccrReg := 0xC004, trise := 11 } ∧
    i2cTiming .b1 0b1111 = .ok { freq := 36, ccrReg := 0xC004, trise := 11 } ∧ (lab (running .start)).turn.bit = true ∧
    ((lab (running .start)).i2cAt .b1).pe = true := ⟨lab_runsAt, rfl, rfl, rfl, rfl, rfl, rfl, rfl, rfl⟩

theorem witness_BusResetSequence : i2cBusOf bench 1 = some .b1 ∧ RunsAt (lab (running .start)) .start ∧
    (lab (running .start)).turn.bit = true ∧
    RunsAt (lab (running (.busReset .readSda)) (turn := .ofCtx 0 false)) (.busReset .readSda) ∧
    (lab (running (.busReset .readSda)) (turn := .ofCtx 0 false)).turn.bit = false ∧
    RunsAt (lab (running (.busReset .readScl)) (turn := .ofCtx 0 false)) (.busReset .readScl) ∧
    RunsAt (lab (running (.busReset .readScl))) (.busReset .readScl) ∧
    ((lab (running (.busReset .readScl))).i2cAt .b1).gpioScl = true ∧
    RunsAt (lab (running (.busReset .readSda))) (.busReset .readSda) ∧
    ((lab (running (.busReset .readSda))).i2cAt .b1).gpioSda = true :=
  ⟨rfl, lab_runsAt, rfl, lab_runsAt, rfl, lab_runsAt, lab_runsAt, rfl, lab_runsAt, rfl⟩

/-- Counts 1 and 0xFFFF are good, counts 0 and 0x10001 and an address that is no multiple of 4 are not. -/
theorem witness_XferGuardClaimsTheInstance : RunsAt (lab (running .start 0 0x20000100 1)) .start ∧
    i2cBusOf bench 1 = some .b1 ∧ i2cOn.inflight = none ∧ i2cOn.dev.state = .idle ∧
    ((1#32).extractLsb' 16 16 = 0 ∧ (1#32).extractLsb' 0 16 ≠ 0 ∧ (0x20000100#32).toNat % 4 = 0) ∧
    ((0xFFFF#32).extractLsb' 16 16 = 0 ∧ (0xFFFF#32).extractLsb' 0 16 ≠ 0) ∧
    ¬((0#32).extractLsb' 0 16 ≠ 0) ∧ ¬((0x10001#32).extractLsb' 16 16 = 0) ∧ ¬((0x20000102#32).toNat % 4 = 0) := by
  refine ⟨lab_runsAt, rfl, rfl, rfl, ?_⟩; decide

/-- The four checks, each alone, at the least value that fails it and the greatest that passes. -/
theorem test_descriptor_checks : descOk 0x7F 0 0 = true ∧ descOk 0x80 0 0 = false ∧ descOk 0x3FF 2 0 = true ∧
    descOk 0x400 2 0 = false ∧ descOk 0x50 1 0 = false ∧ descOk 0x50 1 1 = true ∧ descOk 0x50 4 1 = false := by decide

/-- A descriptor at the top of the address space: its last field ends there; a good address and a bad one. -/
theorem witness_XferValidatesADescriptor :
    RunsAt (lab (running (.xferEntry (.checkAddr 0)) 0 0xFFFFFFF4 1)) (.xferEntry (.checkAddr 0)) ∧
    i2cBusOf bench 1 = some .b1 ∧ 0xFFFFFFF4 = (0xFFFFFFF4#32).toNat + 12 * 0 ∧ allows bench 0xFFFFFFF4 2 = true ∧
    allows bench (0xFFFFFFF4 + 2) 2 = true ∧ allows bench (0xFFFFFFF4 + 4) 2 = true ∧
    (Memory.read16 [(0xFFFFFFF4, 0x7F)] 0xFFFFFFF4 = 0x7F ∧ ¬0x80 ≤ (0x7F#16).toNat) ∧
    (Memory.read16 [(0xFFFFFFF4, 0x80)] 0xFFFFFFF4 = 0x80 ∧ 0x80 ≤ (0x80#16).toNat) := by
  refine ⟨lab_runsAt, rfl, ?_⟩; decide

theorem witness_XferEntrySetsTheCursor :
    RunsAt (lab (running (.xferEntry .msgs))) (.xferEntry .msgs) ∧ i2cBusOf bench 1 = some .b1 ∧
    RunsAt (lab (running (.xferEntry .now))) (.xferEntry .now) ∧
    RunsAt (lab (running (.xferEntry (.t0 0xFFFFFFFF)))) (.xferEntry (.t0 0xFFFFFFFF)) :=
  ⟨lab_runsAt, rfl, lab_runsAt, lab_runsAt⟩

/-- The last index of the largest count. -/
theorem witness_XferLoadsTheMessage : RunsAt (lab (running (.xferLoad (.index 65535)))) (.xferLoad (.index 65535)) ∧
    i2cBusOf bench 1 = some .b1 ∧ 65535 < 65536 ∧ 786420 = i2cOn.dev.cursor.msgs.toNat + 12 * 65535 ∧
    allows bench 786420 2 = true ∧ allows bench 786422 2 = true ∧ allows bench 786424 2 = true ∧
    allows bench 786428 4 = true ∧ allows bench 786426 2 = true ∧
    (Memory.read16 [(786420, 0x7F)] 786420 = 0x7F ∧ ¬0x80 ≤ (0x7F#16).toNat) ∧
    (Memory.read16 [(786420, 0x80)] 786420 = 0x80 ∧ 0x80 ≤ (0x80#16).toNat) := by
  refine ⟨lab_runsAt, rfl, ?_⟩; decide

/-- A message that reads two bytes from the 7-bit address 0x50. -/
def reading2 : Msg := { addr := 0x50, rd := true, ten := false, len := 2, data := 0x20000200 }

/-- A message that reads two bytes from the 10-bit address 0x3FF. -/
def reading10 : Msg := { addr := 0x3FF, rd := true, ten := true, len := 2, data := 0x20000200 }

/-- The bytes of R159 written out: 11110 11 0, 11111111, 11110 11 1. -/
theorem test_ten_bit_bytes : reading10.headerByte false = 0b11110110 ∧ reading10.lowByte = 0b11111111 ∧
    reading10.headerByte true = 0b11110111 ∧ reading2.addr7Byte = 0b10100001 := by decide

theorem witness_XferStartsTheMessage : i2cBusOf bench 1 = some .b1 ∧
    RunsAt (lab (running (.xfer reading2 .ack))) (.xfer reading2 .ack) ∧
    RunsAt (lab (running (.xfer reading2 .start))) (.xfer reading2 .start) ∧
    RunsAt (lab (running (.xfer reading2 (.wait .sb .sr1))) (y := { i2cOn with sr1 := 1 })) (.xfer reading2 (.wait .sb .sr1)) ∧
    { i2cOn with sr1 := 1 }.sr1 &&& 0x00004F00 = 0 ∧ testBit { i2cOn with sr1 := 1 }.sr1 i2cSB = true ∧
    RunsAt (lab (running (.xfer reading10 (.wait .add10 .sr1))) (y := { i2cOn with sr1 := 8 }))
      (.xfer reading10 (.wait .add10 .sr1)) ∧
    { i2cOn with sr1 := 8 }.sr1 &&& 0x00004F00 = 0 ∧ testBit { i2cOn with sr1 := 8 }.sr1 i2cADD10 = true ∧
    RunsAt (lab (running (.xfer reading10 .clearMid))) (.xfer reading10 .clearMid) ∧
    RunsAt (lab (running (.xfer reading10 .restart))) (.xfer reading10 .restart) ∧
    RunsAt (lab (running (.xfer reading10 (.wait .sbR .sr1))) (y := { i2cOn with sr1 := 1 }))
      (.xfer reading10 (.wait .sbR .sr1)) ∧
    RunsAt (lab (running (.xfer reading2 .clearAddr))) (.xfer reading2 .clearAddr) :=
  ⟨rfl, lab_runsAt, lab_runsAt, lab_runsAt, rfl, rfl, lab_runsAt, rfl, rfl, lab_runsAt, lab_runsAt, lab_runsAt, lab_runsAt⟩

/-- The SR1 flags of the waits as the single-bit values of R49: SB 0x01, ADDR 0x02, BTF 0x04, ADD10 0x08, RXNE 0x40, TXE
0x80. -/
theorem test_wait_flags :
    [WaitPt.sb, .addr, .btf, .add10, .rxne 0, .txe 1].map (fun w => w.sr1Bit.map bitMask) =
      [some 0x01, some 0x02, some 0x04, some 0x08, some 0x40, some 0x80] ∧
    WaitPt.sbR.sr1Bit = WaitPt.sb.sr1Bit ∧ WaitPt.addrR.sr1Bit = WaitPt.addr.sr1Bit := by decide

/-- Each error bit alone is a fault; SB seen and not seen; a CR1 wait with and without a pending operation. -/
theorem witness_WaitIterationOrder : i2cBusOf bench 1 = some .b1 ∧
    RunsAt (lab (running (.xfer reading2 (.wait .sb .sr1))) (y := { i2cOn with sr1 := 0x0100 }))
      (.xfer reading2 (.wait .sb .sr1)) ∧ (0x0100#32) &&& 0x00004F00 ≠ 0 ∧ (0x4000#32) &&& 0x00004F00 ≠ 0 ∧
    (0x0001#32) &&& 0x00004F00 = 0 ∧ testBit 0x0001 0 = true ∧ testBit 0x0000 0 = false ∧
    i2cOn.cr1 &&& 0x00001300 = 0 ∧ (0x0100#32) &&& 0x00001300 ≠ 0 := by
  refine ⟨rfl, lab_runsAt, ?_⟩; decide

theorem witness_ProtocolFaultExit : i2cBusOf bench 1 = some .b1 ∧
    RunsAt (lab (running (.xfer reading2 (.faultFlags 0x0400)))) (.xfer reading2 (.faultFlags 0x0400)) :=
  ⟨rfl, lab_runsAt⟩

theorem witness_TimeoutAndSuccessExits : i2cBusOf bench 1 = some .b1 ∧
    RunsAt (lab (running (.xfer reading2 (.exitStop .timeout)))) (.xfer reading2 (.exitStop .timeout)) ∧
    RunsAt (lab (running (.xfer reading2 .stop))) (.xfer reading2 .stop) ∧
    RunsAt (lab (running (.xfer reading2 (.exitState .ok)))) (.xfer reading2 (.exitState .ok)) :=
  ⟨rfl, lab_runsAt, lab_runsAt, lab_runsAt⟩

/-- Byte 0 of 2 is the last but one, byte 1 the last. -/
theorem witness_XferMovesAByte : i2cBusOf bench 1 = some .b1 ∧ allows bench (reading2.data.toNat + 1) 1 = true ∧
    allows bench (currentDesc (lab (running .ret)) .b1 + 6) 2 = true ∧
    RunsAt (lab (running (.xfer reading2 (.wait (.rxne 0) .sr1))) (y := { i2cOn with sr1 := 0x40 }))
      (.xfer reading2 (.wait (.rxne 0) .sr1)) ∧
    RunsAt (lab (running (.xfer reading2 (.wait (.rxne 1) .sr1))) (y := { i2cOn with sr1 := 0x40 }))
      (.xfer reading2 (.wait (.rxne 1) .sr1)) ∧ 0 + 2 = reading2.len ∧
    (0x40#32) &&& 0x00004F00 = 0 ∧ testBit 0x40 i2cRXNE = true ∧
    RunsAt (lab (running (.xfer { reading2 with rd := false } (.txFetch 1)))) (.xfer { reading2 with rd := false } (.txFetch 1)) := by
  refine ⟨rfl, ?_, ?_, lab_runsAt, lab_runsAt, rfl, rfl, rfl, lab_runsAt⟩ <;> decide

/-- The byte received is the byte read (R48, R198), and a byte written to DR is then the one in DR (R73). -/
theorem test_dr_is_one_register : (i2cOn.receiveData 0x5A).readDr.1 = 0x5A ∧
    ((i2cOn.receiveData 0x5A).writeDr 0xA0).readDr.1 = 0xA0 ∧ ((i2cOn.receiveData 0x5A).writeDr 0xA0).received = 0x5A := by decide

/-- The choices of `ProbeOfAnAddress` after the first. -/
def probeTurns (ack : Bool) : List Turn :=
  List.replicate 19 (Turn.ofCtx 0) ++ [.ofAgent (.i2c .b1 .accept), .ofAgent (.i2c .b1 .generate), .ofCtx 0, .ofCtx 0,
    .ofAgent (.i2c .b1 .address) 0 ack] ++
    (if ack then List.replicate 5 (Turn.ofCtx 0) ++ [.ofAgent (.i2c .b1 .stop)] ++ List.replicate 6 (Turn.ofCtx 0)
      else List.replicate 7 (Turn.ofCtx 0))

/-- The probe of the highest address that is not reserved, 0x77. -/
theorem witness_ProbeOfAnAddress (ack : Bool) :
    (lab (running .start 0x00000112 0x20000100 1) (m := [(0x20000100, 0x77)]) (rest := probeTurns ack)).env =
      List.replicate 20 (Turn.ofCtx 0) ++ [.ofAgent (.i2c .b1 .accept), .ofAgent (.i2c .b1 .generate), .ofCtx 0,
      .ofCtx 0, .ofAgent (.i2c .b1 .address) 0 ack] ++
      (if ack then List.replicate 5 (Turn.ofCtx 0) ++ [.ofAgent (.i2c .b1 .stop)] ++ List.replicate 6 (Turn.ofCtx 0)
        else List.replicate 7 (Turn.ofCtx 0)) ++ [] ∧
    RunsAt (lab (running .start 0x00000112 0x20000100 1) (m := [(0x20000100, 0x77)]) (rest := probeTurns ack)) .start ∧
    decode 0x00000112 = .ok (.i2cMasterXfer 1) ∧ i2cBusOf bench 1 = some .b1 ∧ i2cOn.inflight = none ∧
    i2cOn.dev.state = .idle ∧ i2cOn.pe = true ∧ i2cOn.connected = true ∧ i2cOn.phase = .idle ∧ i2cOn.busy = false ∧
    i2cOn.cr1 &&& 0x00001300 = 0 ∧ 0x20000100 = (0x20000100#32).toNat ∧ 0x20000100 % 4 = 0 ∧
    (Memory.read16 [(0x20000100, 0x77)] 0x20000100).toNat < 0x78 ∧ Memory.read16 [(0x20000100, 0x77)] 0x20000102 = 0 ∧
    Memory.read16 [(0x20000100, 0x77)] 0x20000104 = 0 ∧ allows bench 0x20000100 2 = true ∧
    allows bench 0x20000102 2 = true ∧ allows bench 0x20000104 2 = true ∧ allows bench 0x20000108 4 = true ∧
    allows bench 0x20000106 2 = true := by
  refine ⟨?_, lab_runsAt, ?_⟩
  · cases ack <;> decide
  · decide

/-- A start requested in phase Idle and, with no byte pending, in phase Tx; not served in phase Started and, with a byte
pending, in phase Tx; and a start accepted. -/
theorem witness_I2cStartSteps : i2cValid bench .b1 = true ∧ { i2cOn with cr1 := 0x0101 }.pe = true ∧ i2cOn.connected = true ∧
    (lab (running .ret) (y := { i2cOn with cr1 := 0x0101 }) (turn := .ofAgent (.i2c .b1 .accept))).turn.agent =
      .i2c .b1 .accept ∧ { i2cOn with cr1 := 0x0101 }.startReq = true ∧ i2cOn.phase = .idle ∧
    ({ i2cOn with phase := .tx }.phase = .tx ∧ { i2cOn with phase := .tx }.txPending = false) ∧
    { i2cOn with phase := .started }.phase ∈ [Phase.startReq, .started, .hdrSent, .addressed] ∧
    ({ i2cOn with phase := .tx }.phase = .tx ∧ { i2cOn with txPending := true }.txPending = true) ∧
    (lab (running .ret) (y := { i2cOn with phase := .startReq }) (turn := .ofAgent (.i2c .b1 .generate))).turn.agent =
      .i2c .b1 .generate ∧ { i2cOn with phase := .startReq }.phase = .startReq :=
  ⟨rfl, rfl, rfl, rfl, rfl, rfl, ⟨rfl, rfl⟩, by decide, ⟨rfl, rfl⟩, rfl, rfl⟩

/-- The write header 0xF6 of the highest 10-bit addresses, and the read address byte 0xFF. -/
theorem witness_I2cAddressSteps : i2cValid bench .b1 = true ∧ i2cOn.pe = true ∧ i2cOn.connected = true ∧
    { i2cOn with phase := .started, txPending := true, dr := 0xF6 }.txPending = true ∧
    (0xF6#8 &&& 0xF9 == 0xF0) = true ∧ (0xFF#8 &&& 0xF9 == 0xF0) = false ∧
    (lab (running .ret) (y := { i2cOn with phase := .started, txPending := true, dr := 0xF6 })
      (turn := .ofAgent (.i2c .b1 .address))).turn.agent = .i2c .b1 .address ∧
    { i2cOn with phase := .started }.phase = .started ∧
    (lab (running .ret) (y := { i2cOn with phase := .hdrSent, txPending := true })
      (turn := .ofAgent (.i2c .b1 .address2))).turn.agent = .i2c .b1 .address2 ∧
    { i2cOn with phase := .hdrSent }.phase = .hdrSent := ⟨rfl, rfl, rfl, rfl, rfl, rfl, rfl, rfl, rfl, rfl⟩

theorem witness_I2cDataAndStopSteps : i2cValid bench .b1 = true ∧ i2cOn.pe = true ∧ i2cOn.connected = true ∧
    (lab (running .ret) (y := { i2cOn with phase := .tx, txPending := true })
      (turn := .ofAgent (.i2c .b1 .transmit))).turn.agent = .i2c .b1 .transmit ∧
    { i2cOn with phase := .tx, txPending := true }.txPending = true ∧
    (lab (running .ret) (y := { i2cOn with phase := .rx }) (turn := .ofAgent (.i2c .b1 .receive))).turn.agent =
      .i2c .b1 .receive ∧ testBit { i2cOn with phase := .rx }.sr1 i2cRXNE = false ∧
    (lab (running .ret) (y := { i2cOn with cr1 := 0x0201 }) (turn := .ofAgent (.i2c .b1 .stop))).turn.agent =
      .i2c .b1 .stop ∧ { i2cOn with cr1 := 0x0201 }.stopReq = true ∧
    ¬({ i2cOn with cr1 := 0x0201 }.phase = .tx ∧ { i2cOn with cr1 := 0x0201 }.txPending = true) := by
  refine ⟨rfl, rfl, rfl, rfl, rfl, rfl, rfl, rfl, rfl, ?_⟩; decide

theorem witness_I2cStepsNeedTheBus :
    (lab (running .ret) (turn := .ofAgent (.i2c .b1 .stop))).turn.agent = .i2c .b1 .stop ∧ { i2cOn with cr1 := 0 }.pe = false ∧
    { i2cOn with pins := .gpioOD }.connected = false ∧ (Turn.ofAgent (.i2c .b1 .transmit) 0 true).noFault .b1 = true ∧
    (∃ t, step (lab (running .ret) (turn := .ofAgent (.i2c .b1 .stop))) = .next t) ∧ i2cOn.sr1 &&& 0x0000FF00 = 0 :=
  ⟨rfl, rfl, rfl, rfl, ⟨_, rfl⟩, rfl⟩

theorem witness_HalfWritesAreLittleEndian : Memory.wf [(0x20000100, 0x77), (0x20000101, 0x01)] = true := by decide

theorem witness_RefusedAccessIsStuck : 2 ^ 32 < 0xFFFFFFFF + 2 ∧ 0 < 1 ∧
    (spiValid bench .b1 = true ∧ 0x40013023 < (bench.spiBase.get .b1).toNat + 0x24 ∧
      (bench.spiBase.get .b1).toNat < 0x40013023 + 1) ∧
    (i2cValid bench .b1 = true ∧ 0x40005400 < (bench.i2cBase.get .b1).toNat + 0x24 ∧
      (bench.i2cBase.get .b1).toNat < 0x40005400 + 1) ∧
    RunsAt (lab (running (.reading (.store 0 5)) 0 0x40013023 1)) (.reading (.store 0 5)) ∧
    allows bench 0x40013023 1 = false ∧
    RunsAt (lab (running (.writing (.fetch 0 0)) 0 0x40005400 1)) (.writing (.fetch 0 0)) ∧
    allows bench 0x40005400 1 = false ∧
    RunsAt (lab (running (.xfer { reading2 with data := 0xFFFFFFFF } (.rxStore 1 5))))
      (.xfer { reading2 with data := 0xFFFFFFFF } (.rxStore 1 5)) ∧ allows bench (0xFFFFFFFF + 1) 1 = false ∧
    RunsAt (lab (running (.xferEntry (.checkAddr 1)) 0 0xFFFFFFF4 2)) (.xferEntry (.checkAddr 1)) ∧
    allows bench (0xFFFFFFF4 + 12) 2 = false := by
  refine ⟨?_, ?_, ?_, ?_, lab_runsAt, ?_, lab_runsAt, ?_, lab_runsAt, ?_, lab_runsAt, ?_⟩ <;> decide

/-- An I2C1 whose current descriptor is the first one at 0xFFFFFFFC, of which only the address and the flags are in the
address space. -/
def i2cTop : I2cBus := { i2cOn with dev := { i2cOn.dev with cursor := { Cursor.reset with msgs := 0xFFFFFFFC } } }

/-- The other accesses of I2C.MASTER_XFER at the top of the address space: the descriptor's fields for validation, for the
load and for the count, and a byte of a write message. -/
theorem witness_RefusedAccessIsStuck_xfer : (0xFFFFFFFC = i2cTop.dev.cursor.msgs.toNat + 12 * i2cTop.dev.cursor.idx.toNat) ∧
    RunsAt (lab (running (.xferEntry (.checkFlags 0 0)) 0 0xFFFFFFFE 1)) (.xferEntry (.checkFlags 0 0)) ∧
    RunsAt (lab (running (.xferEntry (.checkLen 0 0 0)) 0 0xFFFFFFFC 1)) (.xferEntry (.checkLen 0 0 0)) ∧
    RunsAt (lab (running (.xferLoad (.len 0 0))) (y := i2cTop)) (.xferLoad (.len 0 0)) ∧
    RunsAt (lab (running (.xferLoad (.clear reading2))) (y := i2cTop)) (.xferLoad (.clear reading2)) ∧
    RunsAt (lab (running (.xfer reading2 (.rxCount 0))) (y := i2cTop)) (.xfer reading2 (.rxCount 0)) ∧
    RunsAt (lab (running (.xfer reading2 (.txCount 0))) (y := i2cTop)) (.xfer reading2 (.txCount 0)) ∧
    RunsAt (lab (running (.xfer { reading2 with data := 0xFFFFFFFF } (.txFetch 1))))
      (.xfer { reading2 with data := 0xFFFFFFFF } (.txFetch 1)) ∧
    allows bench (0xFFFFFFFE + 2) 2 = false ∧ allows bench (0xFFFFFFFC + 4) 2 = false ∧
    allows bench (0xFFFFFFFC + 6) 2 = false ∧ allows bench (0xFFFFFFFF + 1) 1 = false := by
  refine ⟨by decide, lab_runsAt, lab_runsAt, lab_runsAt, lab_runsAt, lab_runsAt, lab_runsAt, lab_runsAt, ?_⟩; decide

/-- The load's address, flags and data, and a caller's store, refused by ADMIT alone: a region list of width 1 below
0x20000000, whose last byte is admitted. -/
theorem witness_RefusedAccessIsStuck_admit :
    (∀ r ∈ [AdmitRegion.mk 0 0x20000000 1], r.width ≠ 2 ∨ 0x100 < r.base ∨ r.base + r.size < 0x100 + 2) ∧
    (∀ r ∈ [AdmitRegion.mk 0 0x20000000 1], r.width ≠ 4 ∨ 0x108 < r.base ∨ r.base + r.size < 0x108 + 4) ∧
    (∀ r ∈ [AdmitRegion.mk 0 0x20000000 1], r.width ≠ 1 ∨ 0x20000000 < r.base ∨ r.base + r.size < 0x20000000 + 1) ∧
    allows { bench with admitted := [AdmitRegion.mk 0 0x20000000 1] } 0x1FFFFFFF 1 = true ∧
    RunsAt (lab (running (.xferLoad .addr))) (.xferLoad .addr) ∧
    RunsAt (lab (running (.xferLoad (.flags 0)))) (.xferLoad (.flags 0)) ∧
    RunsAt (lab (running (.xferLoad (.data 0 0 0)))) (.xferLoad (.data 0 0 0)) ∧
    (lab (calling [.store 0x20000000 5])).turn.agent = .ctx ∧ RunsAt (lab (calling [.store 0x20000000 5])) .ready ∧
    (lab (calling [.store 0x20000000 5])).me.program = [.store 0x20000000 5] ∧
    allows { bench with admitted := [AdmitRegion.mk 0 0x20000000 1] } (0x20000000#32).toNat 1 = false := by
  refine ⟨?_, ?_, ?_, ?_, lab_runsAt, lab_runsAt, lab_runsAt, rfl, ⟨?_, rfl, rfl⟩, rfl, ?_⟩ <;> decide

theorem witness_StepKeepsMemoryCanonical :
    (lab (calling [.store 0x20000000 5])).mem.wf = true ∧ ∃ t, step (lab (calling [.store 0x20000000 5])) = .next t :=
  ⟨rfl, _, rfl⟩

theorem witness_StepKeepsTheRegisterInvariants : (lab (running .ret)).busesOk ∧ ∃ t, step (lab (running .ret)) = .next t :=
  ⟨fun b => by cases b <;> decide, _, rfl⟩

/-- One command that holds I2C1 of which nothing else is in use; the device state is as given. -/
def onI2c1 (p : Pos) (w : Word) (d : DevState) : State :=
  (lab (running p w)).setI2c .b1 { i2cOn with inflight := some 0, dev := { Dev.reset with state := d } }

/-- A transfer at its success exit: context 0 holds I2C1, which is Busy. -/
def transferring : State := onI2c1 (.xfer reading2 (.exitState .ok)) 0x00000112 .busy

/-- I2C.MASTER_ENABLE at its update of the device state, after a failed transfer. -/
def enabling : State := onI2c1 (.enabling .state) 0x00010111 .error

/-- The control invariant of a machine of one context that stands at a micro-step of command `i`, holds I2C1 and programs no
timing register; the device is Busy where a transfer runs. -/
theorem controlOk_onI2c1 {p : Pos} {w : Word} {d : DevState} {i : Instr} (hw : decode w = .ok i)
    (hp : (running p w).posOk = true) (hh : heldAt bench i p = some (.i2c .b1)) (ht : programsTiming p = false)
    (hb : xferRuns p = true → d = .busy) : (onI2c1 p w d).controlOk := by
  intro c hc
  have h0 : c = 0 := Nat.lt_one_iff.1 hc
  subst h0
  refine ⟨hp, fun i' inst hi h => ?_, fun i' b _ h => ?_, fun i' b hi hx h => ?_⟩
  · cases hw.symm.trans hi; cases hh.symm.trans h; rfl
  · cases ht.symm.trans h
  · cases hw.symm.trans hi; cases hh.symm.trans h; exact hb hx

theorem transferring_controlOk : transferring.controlOk :=
  controlOk_onI2c1 (i := .i2cMasterXfer 1) rfl rfl rfl rfl fun _ => rfl

theorem transferring_busyOk : transferring.busyOk
  | .b1, _ => ⟨0, .i2cMasterXfer 1, by decide, rfl, rfl, rfl, rfl⟩
  | .b2, h => by cases h
  | .b3, h => by cases h

/-- Also of ControlledStepsAreSafe. -/
theorem witness_StepKeepsControl : transferring.controlOk ∧ transferring.busyOk ∧
    ∃ t, step transferring = .next t := ⟨transferring_controlOk, transferring_busyOk, _, rfl⟩

theorem witness_DeviceStateTransitions : transferring.controlOk ∧
    ∃ t, step transferring = .next t ∧
      (t.i2cAt .b1).dev.state ≠ (transferring.i2cAt .b1).dev.state :=
  ⟨transferring_controlOk, _, rfl, by decide⟩

/-- I2C.MASTER_ENABLE on a device in Error, with no device Busy. -/
theorem witness_DeviceStateTransitions_enable : enabling.controlOk ∧ enabling.busyOk ∧
    ∃ t, step enabling = .next t ∧ (t.i2cAt .b1).dev.state ≠ (enabling.i2cAt .b1).dev.state :=
  ⟨controlOk_onI2c1 (i := .i2cMasterEnable 1 1) rfl rfl rfl rfl (fun h => (by cases h)),
    fun b h => (by cases b <;> cases h), _, rfl, by decide⟩

/-- The third buses of a platform that has them; the last address of a block. -/
theorem witness_CommandsAreIndependent_blocks : blocksApart bench = true ∧ BusId.b2 ≠ .b3 ∧ spiValid bench .b3 = true ∧
    i2cValid bench .b3 = true ∧ (bench.spiBase.get .b2).toNat ≤ 0x40003823 ∧
    0x40003823 < (bench.spiBase.get .b2).toNat + blockSize bench := by decide

theorem witness_CommandsAreIndependent : (∃ t, exec (.spiEnd 1) (lab (running .ret)) = .next t) ∧
    (∃ t, exec (.i2cInit 1) (lab (running .ret)) = .next t) ∧ (Instr.i2cInit 1).isSpi = false ∧
    (∃ t, exec (.spiBaudCalc 1 4) (lab (running .start)) = .next t) ∧ (Instr.spiBaudCalc 1 4).accesses = false ∧
    spiBusOf bench 1 ≠ some .b2 := ⟨⟨_, rfl⟩, ⟨_, rfl⟩, rfl, ⟨_, rfl⟩, rfl, by decide⟩

theorem witness_RecordAndTimeOnlyAdvance :
    ∃ t, step (lab (running .ret) (turn := .ofAgent .time)) = .next t := ⟨_, rfl⟩

end Sys2Proof.Tests
end

namespace Sys2Proof

/-! # Decoding the word of a command (R91, R92) -/

/-- Under its row's mask the word of every command is the row's match column (R91, R94). -/
theorem encode_and_mask (i : Instr) : encode i &&& i.row.mask = i.row.matchWord := by
  cases i with
  | spiBegin bus tier ord mode => exact Laws.EncodeMatchesRow.spiBegin bus tier ord mode
  | spiBeginSlave bus ord mode => exact Laws.EncodeMatchesRow.spiBeginSlave bus ord mode
  | spiEnd bus => exact Laws.EncodeMatchesRow.spiEnd bus
  | spiRead bus => exact Laws.EncodeMatchesRow.spiRead bus
  | spiWrite bus => exact Laws.EncodeMatchesRow.spiWrite bus
  | spiTransfer bus byte => exact Laws.EncodeMatchesRow.spiTransfer bus byte
  | spiBaudCalc bus tier => exact Laws.EncodeMatchesRow.spiBaudCalc bus tier
  | i2cInit bus => exact Laws.EncodeMatchesRow.i2cInit bus
  | i2cMasterEnable bus flags => exact Laws.EncodeMatchesRow.i2cMasterEnable bus flags
  | i2cMasterXfer bus => exact Laws.EncodeMatchesRow.i2cMasterXfer bus
  | i2cBusReset bus => exact Laws.EncodeMatchesRow.i2cBusReset bus
  | i2cTimingCalc bus flags => exact Laws.EncodeMatchesRow.i2cTimingCalc bus flags

/-- Every row fixes the whole OP byte. -/
theorem Opcode.mask_op (o : Opcode) {k : Nat} (hk : k < 8) : o.mask.getLsbD k = true := by
  cases o <;> revert k <;> decide

/-- The OP byte of a command's word is its row's. -/
theorem encode_op (i : Instr) : (encode i).extractLsb' 0 8 = i.row.code := by
  refine BitVec.eq_of_getLsbD_eq fun k hk => ?_
  have h : (encode i &&& i.row.mask).getLsbD k = i.row.matchWord.getLsbD k := by rw [encode_and_mask i]
  rw [BitVec.getLsbD_and, Opcode.mask_op _ hk, Bool.and_true] at h
  simpa [hk, Opcode.matchWord, show k < 32 by omega] using h

/-- A field of a word, from its bits. -/
theorem extractLsb'_eq_of_bits {w n start : Nat} {v : BitVec w} {x : BitVec n}
    (h : ∀ k, k < n → v.getLsbD (start + k) = x.getLsbD k) : v.extractLsb' start n = x :=
  BitVec.eq_of_getLsbD_eq fun k hk => by simp [hk, h k hk]

/-- The operand field of format C0 (R86). -/
theorem formatC0_fields (bus : BitVec 4) (op : BitVec 8) :
    BitVec.extractLsb' (n := 20 + 4 + 8) 8 4 (0#20 ++ bus ++ op) = bus := by
  refine extractLsb'_eq_of_bits fun k hk => ?_
  rw [formatC0_getLsbD]
  grind

/-- The operand fields of format CS (R87). -/
theorem formatCS_fields (bus : BitVec 4) (tier : BitVec 8) (ord : BitVec 1) (mode : BitVec 4) (op : BitVec 8) :
    let w : BitVec (3 + 1 + 4 + 8 + 4 + 4 + 8) := 0#3 ++ ord ++ mode ++ tier ++ 0#4 ++ bus ++ op
    w.extractLsb' 8 4 = bus ∧ w.extractLsb' 16 8 = tier ∧ w.extractLsb' 28 1 = ord ∧
      w.extractLsb' 24 4 = mode := by
  refine ⟨extractLsb'_eq_of_bits fun k hk => ?_, extractLsb'_eq_of_bits fun k hk => ?_,
    extractLsb'_eq_of_bits fun k hk => ?_, extractLsb'_eq_of_bits fun k hk => ?_⟩
  all_goals
    rw [formatCS_getLsbD]
    grind

/-- The operand fields of format CB (R88). -/
theorem formatCB_fields (bus : BitVec 4) (byte op : BitVec 8) :
    let w : BitVec (8 + 8 + 4 + 4 + 8) := 0#8 ++ byte ++ 0#4 ++ bus ++ op
    w.extractLsb' 8 4 = bus ∧ w.extractLsb' 16 8 = byte := by
  refine ⟨extractLsb'_eq_of_bits fun k hk => ?_, extractLsb'_eq_of_bits fun k hk => ?_⟩
  all_goals
    rw [formatCB_getLsbD]
    grind

/-- The operand fields of format CF (R89). -/
theorem formatCF_fields (bus flags : BitVec 4) (op : BitVec 8) :
    let w : BitVec (12 + 4 + 4 + 4 + 8) := 0#12 ++ flags ++ 0#4 ++ bus ++ op
    w.extractLsb' 8 4 = bus ∧ w.extractLsb' 16 4 = flags := by
  refine ⟨extractLsb'_eq_of_bits fun k hk => ?_, extractLsb'_eq_of_bits fun k hk => ?_⟩
  all_goals
    rw [formatCF_getLsbD]
    grind

/-- The operand fields of a command's word are the command's operands (R90). -/
theorem Instr.operands_encode (i : Instr) : i.row.operands (encode i) = i := by
  cases i with
  | spiBegin bus tier ord mode =>
    obtain ⟨hbus, htier, hord, hmode⟩ := formatCS_fields bus tier ord mode 0x01
    exact congr (congr (congr (congrArg Instr.spiBegin hbus) htier) hord) hmode
  | spiBeginSlave bus ord mode =>
    obtain ⟨hbus, -, hord, hmode⟩ := formatCS_fields bus 0 ord mode 0x02
    exact congr (congr (congrArg Instr.spiBeginSlave hbus) hord) hmode
  | spiEnd bus => exact congrArg Instr.spiEnd (formatC0_fields bus 0x03)
  | spiRead bus => exact congrArg Instr.spiRead (formatC0_fields bus 0x04)
  | spiWrite bus => exact congrArg Instr.spiWrite (formatC0_fields bus 0x05)
  | spiTransfer bus byte =>
    obtain ⟨hbus, hbyte⟩ := formatCB_fields bus byte 0x06
    exact congr (congrArg Instr.spiTransfer hbus) hbyte
  | spiBaudCalc bus tier =>
    obtain ⟨hbus, htier⟩ := formatCB_fields bus tier 0x07
    exact congr (congrArg Instr.spiBaudCalc hbus) htier
  | i2cInit bus => exact congrArg Instr.i2cInit (formatC0_fields bus 0x10)
  | i2cMasterEnable bus flags =>
    obtain ⟨hbus, hflags⟩ := formatCF_fields bus flags 0x11
    exact congr (congrArg Instr.i2cMasterEnable hbus) hflags
  | i2cMasterXfer bus => exact congrArg Instr.i2cMasterXfer (formatC0_fields bus 0x12)
  | i2cBusReset bus => exact congrArg Instr.i2cBusReset (formatC0_fields bus 0x13)
  | i2cTimingCalc bus flags =>
    obtain ⟨hbus, hflags⟩ := formatCF_fields bus flags 0x14
    exact congr (congrArg Instr.i2cTimingCalc hbus) hflags

/-- Every command decodes from its own word (R91, R92). -/
theorem decode_encode (i : Instr) : decode (encode i) = .ok i := by
  have hrow : Opcode.ofCode ((encode i).extractLsb' 0 8) = some i.row :=
    (Opcode.ofCode_eq_some _ _).2 (encode_op i)
  have hmatch : encode i &&& i.row.mask = i.row.matchWord := encode_and_mask i
  simp [decode, hrow, hmatch, i.operands_encode]

end Sys2Proof

namespace Sys2Proof.Machine

/-! # A context's step (R12, R26) -/

/-- A step of a context that runs a command is one micro-step of it, and the choice is used up. -/
theorem step_of_command {s : State} {i : Instr} (ha : s.turn.agent = .ctx) (hl : s.cur < s.ctxs.length)
    (hf : s.me.fault = none) (hp : s.me.pos ≠ .ready) (hi : decode s.me.issued.cmd = .ok i) :
    step s = andThen (exec i s) fun t => .next t.advance := by
  have hcmd : commandStep s = exec i s := by simp [commandStep, hi]
  have hctx : ctxStep s = exec i s := by simp [ctxStep, hl, hf, hp, hcmd]
  have hagent : agentStep s = exec i s := by simp [agentStep, ha, hctx]
  rw [step, hagent]

/-- What the host interface does with the word of a command (log entry 3). -/
theorem State.withFetchWord_encode (s : State) (i : Instr) :
    s.withFetchWord 32 (encode i).toNat = placeCommand (encode i) s := by
  simp [State.withFetchWord, Nat.mod_eq_of_lt (encode i).isLt]

/-- Context 0 runs the placed word next: it is its turn, it has not halted, and it stands at `start`. -/
theorem placeCommand_runsAt (w : Word) (s : State) :
    (placeCommand w s).turn.agent = .ctx ∧ RunsAt (placeCommand w s) .start ∧
      (placeCommand w s).me.issued.cmd = w :=
  ⟨rfl, ⟨Nat.succ_pos _, rfl, rfl⟩, rfl⟩

/-- Settles O5: the second clause is the first one for the state `placeCommand` gives, whose word decodes. -/
theorem stepRunsTheDecodedCommand : Obligations.StepRunsTheDecodedCommand := by
  unfold Obligations.StepRunsTheDecodedCommand
  refine ⟨fun s i => step_of_command, fun s i => ?_⟩
  rw [State.withFetchWord_encode]
  obtain ⟨hagent, hruns, hword⟩ := placeCommand_runsAt (encode i) s
  have hpos : (placeCommand (encode i) s).me.pos ≠ .ready := by rw [hruns.pos]; exact Pos.noConfusion
  exact step_of_command hagent hruns.here hruns.live hpos (by rw [hword, decode_encode])

/-! # The entry of I2C.MASTER_XFER (R156) -/

/-- The running context after it was moved. -/
theorem State.me_goto {s : State} (hl : s.cur < s.ctxs.length) (p : Pos) : (s.goto p).me = { s.me with pos := p } :=
  State.me_setMe hl _

/-- Of two moves the later one counts. -/
theorem State.goto_goto {s : State} (hl : s.cur < s.ctxs.length) (p q : Pos) : (s.goto p).goto q = s.goto q := by
  rw [State.goto, State.me_goto hl, State.goto, State.setMe_setMe, State.goto]

/-- Moving and replacing a bus are independent. -/
theorem State.setI2c_goto (s : State) (b : BusId) (x : I2cBus) (p : Pos) :
    (s.goto p).setI2c b x = (s.setI2c b x).goto p := rfl

/-- Moving a context to where it stands changes nothing. -/
theorem State.goto_self {s : State} {p : Pos} (hp : s.me.pos = p) : s.goto p = s := by
  rw [State.goto, ← hp]
  exact State.setMe_me s

/-- A micro-step of the entry of I2C.MASTER_XFER (R153, R155, R156). -/
theorem exec_i2cMasterXfer_entry {s : State} {bus : BitVec 4} {b : BusId} {p : EntryPos}
    (hb : i2cBusOf s.plat bus = some b) (hp : s.me.pos = .xferEntry p) :
    exec (.i2cMasterXfer bus) s = xferEntryStep b p s := by
  simp [exec, execI2cMasterXfer, hb, hp]

/-- `s` inside the entry of I2C.MASTER_XFER: at entry position `p`, with I2C bus b replaced. -/
def State.inEntry (s : State) (b : BusId) (x : I2cBus) (p : EntryPos) : State := (s.setI2c b x).goto (.xferEntry p)

section Entry

variable {s : State} {bus : BitVec 4} {b : BusId} {x : I2cBus} {p : EntryPos}

theorem State.inEntry_self (hp : s.me.pos = .xferEntry p) : s.inEntry b (s.i2cAt b) p = s := by
  rw [State.inEntry, State.setI2c_i2cAt, State.goto_self hp]

@[simp] theorem State.inEntry_i2cAt : (s.inEntry b x p).i2cAt b = x := by simp [State.inEntry]

@[simp] theorem State.inEntry_now : (s.inEntry b x p).now = s.now := rfl

theorem State.inEntry_me (hl : s.cur < s.ctxs.length) : (s.inEntry b x p).me = { s.me with pos := .xferEntry p } :=
  State.me_goto (s := s.setI2c b x) hl _

/-- Leaving the entry. -/
theorem State.inEntry_goto (hl : s.cur < s.ctxs.length) (q : Pos) :
    (s.inEntry b x p).goto q = (s.setI2c b x).goto q :=
  State.goto_goto (s := s.setI2c b x) hl _ _

/-- Moving on inside the entry. -/
theorem State.inEntry_goto_entry (hl : s.cur < s.ctxs.length) (q : EntryPos) :
    (s.inEntry b x p).goto (.xferEntry q) = s.inEntry b x q :=
  State.inEntry_goto hl _

theorem State.inEntry_setI2c (y : I2cBus) : (s.inEntry b x p).setI2c b y = s.inEntry b y p := by
  rw [State.inEntry, State.setI2c_goto, State.setI2c_setI2c, State.inEntry]

theorem State.inEntry_setCursor (c : Cursor) :
    (s.inEntry b x p).setCursor b c = s.inEntry b { x with dev := { x.dev with cursor := c } } p := by
  rw [State.setCursor, State.setDev, State.inEntry_i2cAt, State.inEntry_setI2c]

theorem State.inEntry_setDev (d : Dev) : (s.inEntry b x p).setDev b d = s.inEntry b { x with dev := d } p := by
  rw [State.setDev, State.inEntry_i2cAt, State.inEntry_setI2c]

/-- The next micro-step of a run inside the entry. -/
theorem runExec_inEntry (hl : s.cur < s.ctxs.length) (hb : i2cBusOf s.plat bus = some b) (n : Nat) :
    runExec (.i2cMasterXfer bus) (n + 1) (s.inEntry b x p) =
      andThen (xferEntryStep b p (s.inEntry b x p)) (runExec (.i2cMasterXfer bus) n) := by
  have hpos : (s.inEntry b x p).me.pos = .xferEntry p := by rw [State.inEntry_me hl]
  rw [runExec_succ, exec_i2cMasterXfer_entry (s := s.inEntry b x p) hb hpos]

/-- The cursor takes the three operands (R156). -/
theorem runExec_entry_operands (hl : s.cur < s.ctxs.length) (hb : i2cBusOf s.plat bus = some b) :
    runExec (.i2cMasterXfer bus) 3 (s.inEntry b x .msgs) =
      .next (s.inEntry b { x with dev := { x.dev with cursor := { x.dev.cursor with
        msgs := s.me.issued.arg0, count := countOf s.me.issued.arg1, timeout := s.me.issued.arg2 } } } .errorFlags) := by
  simp only [runExec_inEntry hl hb, xferEntryStep, State.cursorAt, State.inEntry_i2cAt, State.inEntry_setCursor,
    State.inEntry_me hl, State.inEntry_goto_entry hl, andThen_next, runExec_zero]

/-- The faults of an earlier transfer are cleared: first the error flags, then SR1 (R156). -/
theorem runExec_entry_clear (hl : s.cur < s.ctxs.length) (hb : i2cBusOf s.plat bus = some b) :
    runExec (.i2cMasterXfer bus) 2 (s.inEntry b x .errorFlags) =
      .next (s.inEntry b { x.writeSr1 sr1EntryWrite with dev := { x.dev with errorFlags := 0 } } .now) := by
  simp only [runExec_inEntry hl hb, xferEntryStep, State.inEntry_i2cAt, State.inEntry_setDev, State.inEntry_setI2c,
    State.inEntry_goto_entry hl, andThen_next, runExec_zero]
  rfl

/-- The start time is read and then put into the cursor (R12, R156). -/
theorem runExec_entry_startTime (hl : s.cur < s.ctxs.length) (hb : i2cBusOf s.plat bus = some b) :
    runExec (.i2cMasterXfer bus) 2 (s.inEntry b x .now) =
      .next ((s.setI2c b { x with dev := { x.dev with cursor := { x.dev.cursor with t0 := s.now } } }).goto
        (.xferLoad (.index 0))) := by
  simp only [runExec_inEntry hl hb, xferEntryStep, State.cursorAt, State.inEntry_i2cAt, State.inEntry_setCursor,
    State.inEntry_now, State.inEntry_goto_entry hl, State.inEntry_goto hl, andThen_next, runExec_zero]

/-- The whole entry after the validation, in its order (R156). -/
theorem runExec_entry (hl : s.cur < s.ctxs.length) (hb : i2cBusOf s.plat bus = some b) :
    runExec (.i2cMasterXfer bus) (3 + (2 + 2)) (s.inEntry b x .msgs) =
      .next ((s.setI2c b { x.writeSr1 sr1EntryWrite with dev := { x.dev with
        errorFlags := 0
        cursor := { x.dev.cursor with
          msgs := s.me.issued.arg0, count := countOf s.me.issued.arg1, t0 := s.now
          timeout := s.me.issued.arg2 } } }).goto (.xferLoad (.index 0))) := by
  rw [runExec_add, runExec_entry_operands hl hb, andThen_next, runExec_add, runExec_entry_clear hl hb, andThen_next,
    runExec_entry_startTime hl hb]
  rfl

end Entry

/-- The SR1 write of the entry clears BERR, ARLO, AF, OVR and TIMEOUT and no other bit (R73, R156). -/
theorem I2cBus.writeSr1_entry (x : I2cBus) :
    x.writeSr1 sr1EntryWrite = { x with sr1 := x.sr1 &&& ~~~0x00004F00#32 } := rfl

/-- `count` is the low half of ARG1 (R90). -/
theorem countOf_eq_extract (arg1 : Word) : countOf arg1 = arg1.extractLsb' 0 16 :=
  BitVec.setWidth_eq_extractLsb' (by decide)

/-- Settles O38: the seven micro-steps of the entry composed, and its last two from any state. -/
theorem xferEntrySetsTheCursor : Obligations.XferEntrySetsTheCursor := by
  unfold Obligations.XferEntrySetsTheCursor
  refine ⟨fun s bus b hs hb => ?_, fun s bus b hb => ⟨fun hs => ?_, fun v hs => ?_⟩⟩
  · have hrun := runExec_entry (x := s.i2cAt b) hs.here hb
    rw [State.inEntry_self hs.pos, I2cBus.writeSr1_entry, countOf_eq_extract] at hrun
    exact runExec_succ_eq_next hrun
  · rw [exec_i2cMasterXfer_entry hb hs.pos, xferEntryStep]
  · rw [exec_i2cMasterXfer_entry hb hs.pos, xferEntryStep]
    rfl

/-! # What every step leaves alone (R11, R185, R203, R227) -/

/-- No agent's step touches the platform. -/
theorem AgentEffect.plat_eq {s t : State} (h : AgentEffect s t) : t.plat = s.plat := by
  cases h with
  | command i t _ _ _ _ h => exact (exec_effect h).plat
  | _ => rfl

/-- No agent's step makes or removes a context (R227). -/
theorem AgentEffect.length_eq {s t : State} (h : AgentEffect s t) : t.ctxs.length = s.ctxs.length := by
  cases h with
  | command i t _ _ _ _ h => exact (exec_effect h).length
  | illegal | issue | readRes | store | port => exact State.setMe_length ..
  | idle | spiStart | spiComplete | i2c | time => rfl

/-- Records are only appended (R185). -/
theorem AgentEffect.events_prefix {s t : State} (h : AgentEffect s t) : s.events <+: t.events := by
  cases h with
  | command i t _ _ _ _ h => exact (exec_effect h).events
  | spiComplete | i2c => exact List.prefix_append ..
  | _ => exact List.prefix_rfl

/-- A next state of a memory access: nothing has happened, or what follows the access has. -/
theorem memAccess_eq_next {a n : Nat} {s t : State} {k : Result} (h : memAccess a n s k = .next t) :
    t = s ∨ k = .next t := by
  rcases memAccess_cases a n s k with ⟨-, e⟩ | ⟨-, e⟩ <;> rw [e] at h
  · exact .inl (Host.Outcome.next.inj h).symm
  · exact .inr h

theorem callerStep_now {s t : State} (h : callerStep s = .next t) : t.now = s.now := by
  unfold callerStep at h
  split at h
  · cases h; rfl
  · cases h; rfl
  · split at h <;> cases h
    rfl
  · rcases memAccess_eq_next h with rfl | h
    · rfl
    · cases h; rfl

theorem commandStep_now {s t : State} (h : commandStep s = .next t) : t.now = s.now := by
  unfold commandStep at h
  split at h
  · exact (exec_effect h).now
  · cases h; rfl

theorem ctxStep_now {s t : State} (h : ctxStep s = .next t) : t.now = s.now := by
  unfold ctxStep at h
  split at h
  · split at h
    · cases h; rfl
    · split at h
      · exact callerStep_now h
      · exact commandStep_now h
  · cases h; rfl

theorem portStep_now (c : Nat) (p : Port) (s : State) : (portStep c p s).now = s.now := by
  unfold portStep; split <;> rfl

theorem spiStartStep_now (b : BusId) (v : Byte) (s : State) : (spiStartStep b v s).now = s.now := by
  unfold spiStartStep; split <;> rfl

theorem spiCompleteStep_now (b : BusId) (v : Byte) (s : State) : (spiCompleteStep b v s).now = s.now := by
  unfold spiCompleteStep; split <;> rfl

theorem i2cPerStep_now (b : BusId) (k : I2cStep) (v : Byte) (a : Bool) (s : State) :
    (i2cPerStep b k v a s).now = s.now := by
  unfold i2cPerStep; dsimp only; split <;> rfl

/-- Of all agents only `Time` moves the time source (R203). -/
theorem agentStep_now {s t : State} (h : agentStep s = .next t) :
    t.now = if s.turn.agent = .time then s.now + 1 else s.now := by
  unfold agentStep at h
  cases ha : s.turn.agent <;> rw [ha] at h
  case ctx => simpa using ctxStep_now h
  case port => cases h; simpa using portStep_now ..
  case spiStart => cases h; simpa using spiStartStep_now ..
  case spiComplete => cases h; simpa using spiCompleteStep_now ..
  case i2c => cases h; simpa using i2cPerStep_now ..
  case time => cases h; simp [timeStep]

/-- Settles O60: the first three clauses from the effects an agent's step can have, the last by the agent. -/
theorem recordAndTimeOnlyAdvance : Obligations.RecordAndTimeOnlyAdvance := by
  unfold Obligations.RecordAndTimeOnlyAdvance
  intro s t h
  obtain ⟨u, hu, rfl⟩ := step_eq_next.1 h
  have heff : AgentEffect s u := agentStep_effect hu
  refine ⟨heff.plat_eq, heff.length_eq, heff.events_prefix, ?_⟩
  rw [State.advance_now, agentStep_now hu]
  split
  · exact BitVec.toNat_add ..
  · rfl

/-! # The register invariants (R9, R34, R39, R42, R45 to R52, R189, R192, R201) -/

/-! ## Bits within a mask -/

/-- `within` as an equation. -/
theorem within_eq_true {m v : Word} : within m v = true ↔ v &&& ~~~m = 0 := by simp [within]

/-- Only bits of `m` are 1 in `v`, bit by bit. -/
theorem within_iff_testBit {m v : Word} :
    within m v = true ↔ ∀ j, j < 32 → testBit v j = true → testBit m j = true := by
  rw [within_eq_true]
  constructor
  · intro h j hj hv
    by_contra hm
    rw [testBit_eq_false_of_masked h hj (by simpa using hm)] at hv
    cases hv
  · intro h
    refine eq_of_testBit_eq fun j hj => ?_
    have hbit := h j hj
    unfold testBit at hbit ⊢
    simp only [BitVec.getLsbD_and, BitVec.getLsbD_not, hj, decide_true, Bool.true_and]
    cases hv : v.getLsbD j <;> simp_all

theorem within_zero (m : Word) : within m 0 = true := by simp [within]

theorem within_and_left {m v : Word} (w : Word) (h : within m v = true) : within m (v &&& w) = true := by
  rw [within_iff_testBit] at *
  intro j hj hv
  rw [testBit_and, Bool.and_eq_true] at hv
  exact h j hj hv.1

theorem within_and_mask (v m : Word) : within m (v &&& m) = true := by
  rw [within_iff_testBit]
  intro j _ hv
  rw [testBit_and, Bool.and_eq_true] at hv
  exact hv.2

/-- Clearing a bit stays within any mask, setting one within a mask that has it. -/
theorem within_clearBit {m v : Word} (h : within m v = true) (i : Nat) : within m (clearBit v i) = true :=
  within_and_left _ h

theorem within_setBit {m v : Word} {i : Nat} (h : within m v = true) (hm : testBit m i = true) :
    within m (setBit v i) = true := by
  have hi : i < 32 := BitVec.lt_of_getLsbD hm
  rw [within_iff_testBit] at *
  intro j hj hv
  rw [testBit_setBit v i j hi, Bool.or_eq_true, decide_eq_true_eq] at hv
  rcases hv with hv | rfl
  · exact h j hj hv
  · exact hm

theorem within_putBit {m v : Word} {i : Nat} (h : within m v = true) (hm : testBit m i = true)
    (b : Bool) : within m (putBit v i b) = true := by
  cases b
  · exact within_clearBit h i
  · exact within_setBit h hm

/-- A value of `n` bits is within a mask of `n` ones. -/
theorem within_setWidth (n : Nat) (v : BitVec n) : within (BitVec.allOnes n |>.setWidth 32) (v.setWidth 32) = true := by
  rw [within_iff_testBit]
  intro j hj hv
  unfold testBit at *
  simp only [BitVec.getLsbD_setWidth, hj, decide_true, Bool.true_and, BitVec.getLsbD_allOnes, decide_eq_true_eq] at *
  exact BitVec.lt_of_getLsbD hv

/-! ## The register invariants by name -/

/-- What `SpiBus.ok` checks, named. -/
structure SpiBus.Inv (x : SpiBus) : Prop where
  cr1     : within spiCr1Mask x.cr1 = true
  sr      : within 0x000000C3 x.sr = true
  cr2     : x.cr2 = SpiBus.reset.cr2
  crcpr   : x.crcpr = SpiBus.reset.crcpr
  rxcrcr  : x.rxcrcr = SpiBus.reset.rxcrcr
  txcrcr  : x.txcrcr = SpiBus.reset.txcrcr
  i2scfgr : x.i2scfgr = SpiBus.reset.i2scfgr
  i2spr   : x.i2spr = SpiBus.reset.i2spr
  idle    : x.spe = false → x.shActive = false

theorem SpiBus.ok_iff {x : SpiBus} : x.ok = true ↔ x.Inv := by
  simp only [SpiBus.ok, Bool.and_eq_true, beq_iff_eq, Bool.or_eq_true, Bool.not_eq_true']
  constructor
  · rintro ⟨⟨⟨⟨⟨⟨⟨⟨cr1, sr⟩, cr2⟩, crcpr⟩, rxcrcr⟩, txcrcr⟩, i2scfgr⟩, i2spr⟩, hidle⟩
    exact { cr1, sr, cr2, crcpr, rxcrcr, txcrcr, i2scfgr, i2spr
            idle := fun h => hidle.resolve_left (by simp [h]) }
  · intro h
    refine ⟨⟨⟨⟨⟨⟨⟨⟨h.cr1, h.sr⟩, h.cr2⟩, h.crcpr⟩, h.rxcrcr⟩, h.txcrcr⟩, h.i2scfgr⟩, h.i2spr⟩, ?_⟩
    cases hs : x.spe
    · exact .inr (h.idle hs)
    · exact .inl rfl

/-- What `I2cBus.ok` checks, named. -/
structure I2cBus.Inv (x : I2cBus) : Prop where
  cr1        : within 0x00000701 x.cr1 = true
  cr2        : within 0x0000003F x.cr2 = true
  ccr        : within i2cCcrMask x.ccr = true
  trise      : within i2cTriseMask x.trise = true
  oar1       : x.oar1 = 0
  oar2       : x.oar2 = 0
  dr         : within 0x000000FF x.dr = true
  sr1        : within 0x00000FCF x.sr1 = true
  sr2        : within 0x00000007 x.sr2 = true
  errorFlags : x.dev.errorFlags &&& ~~~(errMask.setWidth 16) = 0
  idle       : x.pe = false → x.phase = .idle ∧ x.sr2 = 0

theorem I2cBus.ok_iff {x : I2cBus} : x.ok = true ↔ x.Inv := by
  simp only [I2cBus.ok, Bool.and_eq_true, beq_iff_eq, Bool.or_eq_true]
  constructor
  · rintro ⟨⟨⟨⟨⟨⟨⟨⟨⟨⟨cr1, cr2⟩, ccr⟩, trise⟩, oar1⟩, oar2⟩, dr⟩, sr1⟩, sr2⟩, errorFlags⟩, hidle⟩
    exact { cr1, cr2, ccr, trise, oar1, oar2, dr, sr1, sr2, errorFlags
            idle := fun h => hidle.resolve_left (by simp [h]) }
  · intro h
    refine ⟨⟨⟨⟨⟨⟨⟨⟨⟨⟨h.cr1, h.cr2⟩, h.ccr⟩, h.trise⟩, h.oar1⟩, h.oar2⟩, h.dr⟩, h.sr1⟩, h.sr2⟩, h.errorFlags⟩, ?_⟩
    cases hp : x.pe
    · exact .inr (h.idle hp)
    · exact .inl rfl

/-! ## Every access and every step of an SPI bus keeps its invariant -/

/-- A CR1 write that R224 lets through keeps a disabled bus without a frame. -/
theorem SpiBus.Inv.writeCr1 {x : SpiBus} (h : x.Inv) {v : Word} (hv : x.disablesBusy v = false) :
    (x.writeCr1 v).Inv := by
  refine { h with cr1 := within_and_mask .., idle := fun hoff => ?_ }
  show x.shActive = false
  have hspe : testBit v spiSPE = false := by
    have hbit : testBit (v &&& spiCr1Mask) spiSPE = false := hoff
    rw [testBit_and] at hbit
    simpa [show testBit spiCr1Mask spiSPE = true from rfl] using hbit
  cases hs : x.spe with
  | false => exact h.idle hs
  | true => simp_all [SpiBus.disablesBusy]

/-- Clearing a status bit starts no frame. -/
theorem SpiBus.Inv.clearSr {x : SpiBus} (h : x.Inv) (i : Nat) : { x with sr := clearBit x.sr i }.Inv := by
  refine { h with sr := within_clearBit h.sr _, idle := fun hoff => ?_ }
  have hbsy : testBit x.sr spiBSY = false := h.idle hoff
  show testBit (clearBit x.sr i) spiBSY = false
  rw [testBit_clearBit, hbsy, Bool.false_and]

/-- An enabled bus may show any status that stays within the flags that exist. -/
theorem SpiBus.Inv.setSr {x : SpiBus} (h : x.Inv) (hs : x.spe = true) {v : Word} (hv : within 0x000000C3 v = true) :
    { x with sr := v }.Inv :=
  { h with sr := hv, idle := fun hoff => nomatch hs.symm.trans hoff }

theorem SpiBus.Inv.readSr {x : SpiBus} (h : x.Inv) : x.readSr.2.Inv := by
  unfold SpiBus.readSr
  dsimp only
  split
  · exact { h.clearSr spiOVR with }
  · exact { h with }

/-- Every access of a command keeps the invariant. -/
theorem SpiAccess.inv {c : Nat} {x y : SpiBus} (ha : SpiAccess c x y) (h : x.Inv) : y.Inv := by
  cases ha with
  | claim | release | pins => exact { h with }
  | cr1 v hv => exact h.writeCr1 hv
  | readSr => exact h.readSr
  | readDr => exact { h.clearSr spiRXNE with }
  | writeDr v => exact { h.clearSr spiTXE with }

theorem SpiBus.Inv.startFrame {x : SpiBus} (h : x.Inv) (hs : x.spe = true) (draw : Byte) : (x.startFrame draw).Inv :=
  have hsr : within 0x000000C3 (setBit (setBit x.sr spiTXE) spiBSY) = true :=
    within_setBit (within_setBit h.sr rfl) rfl
  { h.setSr hs hsr with }

theorem SpiBus.Inv.receive {x : SpiBus} (h : x.Inv) (hs : x.spe = true) (rx : Byte) : (x.receive rx).Inv := by
  unfold SpiBus.receive
  split
  · exact h.setSr hs (within_setBit h.sr rfl)
  · exact { h.setSr hs (within_setBit (i := spiRXNE) h.sr rfl) with }

theorem SpiBus.receive_spe (x : SpiBus) (rx : Byte) : (x.receive rx).spe = x.spe := by
  unfold SpiBus.receive
  split <;> rfl

theorem SpiBus.Inv.afterFrame {x : SpiBus} (h : x.Inv) (hs : x.spe = true) : x.afterFrame.Inv := by
  unfold SpiBus.afterFrame
  split
  · exact { h.setSr hs (within_setBit (i := spiTXE) h.sr rfl) with }
  · exact h.clearSr spiBSY

/-! ## Every access and every step of an I2C bus keeps its invariant -/

/-- A read-modify-write of one CR1 bit: a disabled peripheral is idle, also the one this write disables (R201). -/
theorem I2cBus.Inv.writeCr1 {x : I2cBus} (h : x.Inv) {v : Word} (hv : within 0x00000701 v = true) :
    (x.writeCr1 v).Inv := by
  rcases x.writeCr1_cases v with ⟨-, -, e⟩ | ⟨hpe, e⟩ <;> rw [e]
  · exact { h with
      cr1 := within_clearBit (within_clearBit (within_clearBit (within_and_left _ hv) _) _) _
      sr1 := within_and_left _ h.sr1
      sr2 := within_zero _
      idle := fun _ => ⟨rfl, rfl⟩ }
  · refine { h with cr1 := within_and_left _ hv, idle := fun hoff => h.idle (hpe.resolve_right fun hon => ?_) }
    have hbit : testBit (v &&& i2cCr1Mask) i2cPE = false := hoff
    rw [testBit_and, hon] at hbit
    cases hbit

/-- What an SR2 read can do keeps the invariant: only a peripheral in phase Addressed, so an enabled one, moves. -/
theorem I2cBus.Inv.readSr2 {x : I2cBus} (h : x.Inv) : x.readSr2.2.Inv := by
  have hmoves : x.phase = .addressed → x.pe = false → False := fun hp hoff => nomatch hp.symm.trans (h.idle hoff).1
  rcases x.readSr2_cases with ⟨-, e⟩ | ⟨-, -, -, e⟩ | ⟨-, -, hp, -, e⟩ | ⟨-, -, hp, -, e⟩ <;> rw [e]
  · exact { h with }
  · exact { h with sr1 := within_clearBit h.sr1 _ }
  · exact { h with
      sr1 := within_setBit (within_clearBit h.sr1 _) rfl
      idle := fun hoff => (hmoves hp hoff).elim }
  · exact { h with
      sr1 := within_clearBit h.sr1 _
      sr2 := within_clearBit h.sr2 _
      idle := fun hoff => (hmoves hp hoff).elim }

theorem I2cBus.Inv.readDr {x : I2cBus} (h : x.Inv) : x.readDr.2.Inv := by
  refine { h with sr1 := ?_ }
  show within 0x00000FCF (if x.armed1 then _ else _) = true
  split
  · exact within_clearBit (within_clearBit h.sr1 _) _
  · exact within_clearBit h.sr1 _

theorem I2cBus.Inv.writeDr {x : I2cBus} (h : x.Inv) (v : Word) : (x.writeDr v).Inv := by
  refine { h with dr := within_setWidth 8 _, sr1 := within_clearBit ?_ _ }
  split
  · exact within_clearBit (within_clearBit (within_clearBit h.sr1 _) _) _
  · exact h.sr1

/-- The error flags are a masked value (R34, R168). -/
theorem errorFlags_within (v : Word) : (v &&& errMask).setWidth 16 &&& ~~~(errMask.setWidth 16 : Half) = 0 := by
  rw [BitVec.setWidth_and, BitVec.and_assoc, BitVec.and_not_self]
  exact BitVec.and_zero

/-- Every access of a command keeps the invariant. -/
theorem I2cAccess.inv {c : Nat} {x y : I2cBus} (ha : I2cAccess c x y) (h : x.Inv) : y.Inv := by
  cases ha with
  | claim | release | pins | scl | sda | readSr1 | state | cursor => exact { h with }
  | cr1 i v hi =>
    have hbit : ∀ i ∈ [i2cPE, i2cSTART, i2cSTOP, i2cACK], testBit 0x00000701 i = true := by decide
    exact h.writeCr1 (within_putBit h.cr1 (hbit i hi) v)
  | cr2 t => exact { h with cr2 := within_and_left _ (within_setWidth 6 _) }
  | ccr => exact { h with ccr := within_and_mask .. }
  | trise => exact { h with trise := within_and_mask .. }
  | reset => exact { h with
      cr1 := within_zero _, cr2 := within_zero _, ccr := within_zero _
      trise := (by decide : within i2cTriseMask 0x0002 = true)
      oar1 := rfl, oar2 := rfl, dr := within_zero _, sr1 := within_zero _, sr2 := within_zero _
      idle := fun _ => ⟨rfl, rfl⟩ }
  | writeSr1 => exact { h with sr1 := within_and_left _ h.sr1 }
  | readSr2 => exact h.readSr2
  | readDr => exact h.readDr
  | writeDr v => exact h.writeDr v
  | flags v => exact { h with errorFlags := errorFlags_within v }

/-- An enabled peripheral is not a disabled one. -/
theorem I2cBus.off_elim {x : I2cBus} {P : Prop} (hp : x.pe = true) (hoff : x.pe = false) : P :=
  nomatch hp.symm.trans hoff

theorem I2cBus.generateStart_pe (x : I2cBus) : x.generateStart.pe = x.pe :=
  (testBit_clearBit x.cr1 i2cSTART i2cPE).trans (Bool.and_true _)

theorem I2cBus.generateStop_pe (x : I2cBus) : x.generateStop.pe = x.pe :=
  (testBit_clearBit x.cr1 i2cSTOP i2cPE).trans (Bool.and_true _)

/-- An address or a data byte that is not acknowledged. -/
theorem I2cBus.Inv.nack {x : I2cBus} (h : x.Inv) (hp : x.pe = true) : x.nack.Inv :=
  { h with sr1 := within_setBit h.sr1 rfl, idle := I2cBus.off_elim hp }

theorem I2cBus.Inv.generateStart {x : I2cBus} (h : x.Inv) (hp : x.pe = true) : x.generateStart.Inv :=
  { h with
    cr1 := within_clearBit h.cr1 _
    sr1 := within_clearBit (within_clearBit (within_setBit h.sr1 rfl) _) _
    sr2 := within_setBit (within_setBit h.sr2 rfl) rfl
    idle := I2cBus.off_elim ((I2cBus.generateStart_pe x).trans hp) }

theorem I2cBus.Inv.generateStop {x : I2cBus} (h : x.Inv) (hp : x.pe = true) : x.generateStop.Inv :=
  { h with
    cr1 := within_clearBit h.cr1 _
    sr1 := within_clearBit (within_clearBit (within_clearBit (within_clearBit h.sr1 _) _) _) _
    sr2 := within_clearBit (within_clearBit (within_clearBit h.sr2 _) _) _
    idle := I2cBus.off_elim ((I2cBus.generateStop_pe x).trans hp) }

theorem I2cBus.Inv.sendAddress {x : I2cBus} (h : x.Inv) (hp : x.pe = true) (ack : Bool) : (x.sendAddress ack).Inv := by
  unfold I2cBus.sendAddress
  dsimp only
  split
  · split
    · exact { h with sr1 := within_setBit h.sr1 rfl, idle := I2cBus.off_elim hp }
    · exact I2cBus.Inv.nack { h with } hp
  · split
    · exact { h with
        sr1 := within_setBit h.sr1 rfl
        sr2 := within_putBit h.sr2 rfl _
        idle := I2cBus.off_elim hp }
    · exact I2cBus.Inv.nack { h with } hp

theorem I2cBus.Inv.sendAddress2 {x : I2cBus} (h : x.Inv) (hp : x.pe = true) (ack : Bool) :
    (x.sendAddress2 ack).Inv := by
  unfold I2cBus.sendAddress2
  dsimp only
  split
  · exact { h with
      sr1 := within_setBit h.sr1 rfl
      sr2 := within_setBit h.sr2 rfl
      idle := I2cBus.off_elim hp }
  · exact I2cBus.Inv.nack { h with } hp

theorem I2cBus.Inv.sendData {x : I2cBus} (h : x.Inv) (hp : x.pe = true) (ack : Bool) : (x.sendData ack).Inv := by
  unfold I2cBus.sendData
  dsimp only
  split
  · exact { h with sr1 := within_setBit (within_setBit h.sr1 rfl) rfl }
  · exact I2cBus.Inv.nack { h with } hp

/-- Every step of an enabled peripheral keeps the invariant. -/
theorem I2cBus.Inv.stepEffect {x : I2cBus} (h : x.Inv) (hp : x.pe = true) (k : I2cStep) (byte : Byte) (bit : Bool) :
    (x.stepEffect k byte bit).Inv := by
  cases k with
  | accept => exact { h with idle := I2cBus.off_elim hp }
  | generate => exact h.generateStart hp
  | address => exact h.sendAddress hp bit
  | address2 => exact h.sendAddress2 hp bit
  | transmit => exact h.sendData hp bit
  | receive => exact { h with dr := within_setWidth 8 _, sr1 := within_setBit h.sr1 rfl }
  | busError => exact { h with sr1 := within_setBit h.sr1 rfl }
  | arbitrationLoss => exact { h with
      sr1 := within_setBit h.sr1 rfl
      sr2 := within_clearBit h.sr2 _
      idle := I2cBus.off_elim hp }
  | overrun => exact { h with sr1 := within_setBit h.sr1 rfl }
  | stop => exact h.generateStop hp

/-! ## The machine -/

/-- What every single access keeps, any number of them keeps. -/
theorem kept_of_reflTransGen {α : Type} {r : α → α → Prop} {P : α → Prop}
    (hr : ∀ x y, r x y → P x → P y) {x y : α} (hxy : Relation.ReflTransGen r x y) (h : P x) : P y := by
  induction hxy with
  | refl => exact h
  | tail _ hyz ih => exact hr _ _ hyz ih

theorem State.busesOk_iff {s : State} : s.busesOk ↔ (∀ b, (s.spiAt b).Inv) ∧ ∀ b, (s.i2cAt b).Inv := by
  simp only [State.busesOk, SpiBus.ok_iff, I2cBus.ok_iff, forall_and]

/-- Replacing one SPI bus by one that keeps the invariant. -/
theorem State.busesOk_setSpi {s : State} (h : s.busesOk) {b : BusId} {x : SpiBus} (hx : x.Inv) :
    (s.setSpi b x).busesOk := by
  rw [State.busesOk_iff] at *
  refine ⟨fun d => ?_, h.2⟩
  by_cases hd : d = b
  · subst hd; simpa using hx
  · simpa [hd] using h.1 d

theorem State.busesOk_setI2c {s : State} (h : s.busesOk) {b : BusId} {x : I2cBus} (hx : x.Inv) :
    (s.setI2c b x).busesOk := by
  rw [State.busesOk_iff] at *
  refine ⟨h.1, fun d => ?_⟩
  by_cases hd : d = b
  · subst hd; simpa using hx
  · simpa [hd] using h.2 d

/-- A micro-step of a command keeps the register invariants. -/
theorem ExecEffect.busesOk {s t : State} (he : ExecEffect s t) (h : s.busesOk) : t.busesOk := by
  rw [State.busesOk_iff] at *
  exact ⟨fun b => kept_of_reflTransGen (P := SpiBus.Inv) (fun _ _ => SpiAccess.inv) (he.spi b) (h.1 b),
    fun b => kept_of_reflTransGen (P := I2cBus.Inv) (fun _ _ => I2cAccess.inv) (he.i2c b) (h.2 b)⟩

/-- Whatever the chosen agent does keeps the register invariants. -/
theorem AgentEffect.busesOk {s t : State} (he : AgentEffect s t) (h : s.busesOk) : t.busesOk := by
  obtain ⟨hspi, hi2c⟩ := State.busesOk_iff.1 h
  cases he with
  | command i t _ _ _ _ hexec => exact (exec_effect hexec).busesOk h
  | idle | illegal | issue | readRes | store | port | time => exact h
  | spiStart b v _ hen =>
    simp only [SpiBus.startEnabled, Bool.and_eq_true] at hen
    obtain ⟨⟨hon, -⟩, -⟩ := hen
    exact State.busesOk_setSpi h ((hspi b).startFrame hon v)
  | spiComplete b v _ hen =>
    simp only [SpiBus.completeEnabled, Bool.and_eq_true] at hen
    obtain ⟨hon, -⟩ := hen
    have hstill : ((s.spiAt b).receive v).spe = true := by rw [SpiBus.receive_spe, hon]
    exact State.busesOk_setSpi h (((hspi b).receive hon v).afterFrame hstill)
  | i2c b k v a _ hen =>
    simp only [I2cBus.stepEnabled, Bool.and_eq_true] at hen
    obtain ⟨⟨hon, -⟩, -⟩ := hen
    exact State.busesOk_setI2c h ((hi2c b).stepEffect hon k v a)

/-- Settles O55: every access of a command and every agent's step keeps the invariant of its bus. -/
theorem stepKeepsTheRegisterInvariants : Obligations.StepKeepsTheRegisterInvariants := by
  unfold Obligations.StepKeepsTheRegisterInvariants
  intro s t h hstep
  obtain ⟨u, hu, rfl⟩ := step_effect hstep
  exact hu.busesOk h

end Sys2Proof.Machine

namespace Sys2Proof.Machine

/-! # Control: positions, ownership and device state under a micro-step (R26, R27, R33, R222, R225) -/

/-! ## The bus of a command and the positions that hold it -/

/-- A command holds its bus at a position: `heldAt` without the platform (R27, R222). -/
def holdsAt (i : Instr) (p : Pos) : Bool :=
  match i with
  | .spiBaudCalc _ _ | .i2cTimingCalc _ _ => false
  | .i2cMasterXfer _ =>
    match p with
    | .ready | .start | .ret | .xfer _ (.exitResult _) => false
    | _ => true
  | _ =>
    match p with
    | .ready | .start => false
    | _ => true

/-- The bus a command names on a platform (R92 step 3). -/
def instOf (p : Platform) (i : Instr) : Option InstId :=
  if i.isSpi then (spiBusOf p i.bus).map .spi else (i2cBusOf p i.bus).map .i2c

theorem heldAt_eq_some {p : Platform} {i : Instr} {pos : Pos} {inst : InstId} :
    heldAt p i pos = some inst ↔ holdsAt i pos = true ∧ instOf p i = some inst := by
  cases i with
  | spiBaudCalc | i2cTimingCalc => simp [heldAt, holdsAt]
  | i2cMasterXfer bus => unfold heldAt holdsAt; dsimp only; split <;> simp [instOf, Instr.isSpi, Instr.bus]
  | _ => cases pos <;> simp [heldAt, holdsAt, instOf, Instr.isSpi, Instr.bus]

/-- No command holds anything before its first micro-step. -/
@[simp] theorem holdsAt_start (i : Instr) : holdsAt i .start = false := by cases i <;> rfl

/-- A transfer past its guard holds its bus. -/
theorem holdsAt_of_xferRuns {i : Instr} {p : Pos} (hf : posFits i p = true) (hx : xferRuns p = true) :
    holdsAt i p = true := by
  cases i with
  | i2cMasterXfer bus =>
    cases p with
    | xferEntry | xferLoad => rfl
    | xfer m q =>
      cases q with
      | exitResult => cases hx
      | _ => rfl
    | _ => cases hx
  | _ => cases p <;> cases hf <;> cases hx

/-- I2C.MASTER_ENABLE holds its bus while it programs the timing registers. -/
theorem holdsAt_of_programsTiming {i : Instr} {p : Pos} (hf : posFits i p = true) (ht : programsTiming p = true) :
    holdsAt i p = true := by
  cases i with
  | i2cMasterEnable bus flags =>
    cases p with
    | enabling => rfl
    | _ => cases ht
  | _ => cases p <;> cases hf <;> cases ht

/-- Where a transfer runs, no timing register is programmed. -/
theorem programsTiming_of_xferRuns {p : Pos} (h : xferRuns p = true) : programsTiming p = false := by
  cases p with
  | xferEntry | xferLoad | xfer => rfl
  | _ => cases h

/-- The positions of a running transfer are those of I2C.MASTER_XFER. -/
theorem posFits_of_xferRuns {p : Pos} (bus : BitVec 4) (h : xferRuns p = true) :
    posFits (.i2cMasterXfer bus) p = true := by
  cases p with
  | xferEntry | xferLoad | xfer => rfl
  | _ => cases h

/-! ## A bus as control sees it -/

/-- Two states have the same record of a bus. -/
def SameInst (s t : State) : InstId → Prop
  | .spi b => t.spiAt b = s.spiAt b
  | .i2c b => t.i2cAt b = s.i2cAt b

/-- The device state of an I2C bus; an SPI bus has none and reads as `disabled`. -/
def State.devAt (s : State) : InstId → DevState
  | .spi _ => .disabled
  | .i2c b => (s.i2cAt b).dev.state

/-- CR1.PE of an I2C bus; an SPI bus has none and reads as 0. -/
def State.peAt (s : State) : InstId → Bool
  | .spi _ => false
  | .i2c b => (s.i2cAt b).pe

theorem SameInst.refl (s : State) (e : InstId) : SameInst s s e := by cases e <;> rfl

theorem SameInst.trans {s t u : State} {e : InstId} (h : SameInst s t e) (g : SameInst t u e) : SameInst s u e := by
  cases e <;> exact Eq.trans g h

theorem SameInst.ownerOf {s t : State} {e : InstId} (h : SameInst s t e) : t.ownerOf e = s.ownerOf e := by
  cases e
  · exact congrArg SpiBus.inflight h
  · exact congrArg I2cBus.inflight h

theorem SameInst.devAt {s t : State} {e : InstId} (h : SameInst s t e) : t.devAt e = s.devAt e := by
  cases e
  · rfl
  · exact congrArg (fun x : I2cBus => x.dev.state) h

theorem SameInst.peAt {s t : State} {e : InstId} (h : SameInst s t e) : t.peAt e = s.peAt e := by
  cases e
  · rfl
  · exact congrArg I2cBus.pe h

theorem SameInst.setSpi (s : State) (b : BusId) (x : SpiBus) {e : InstId} (h : e ≠ .spi b) :
    SameInst s (s.setSpi b x) e := by
  cases e with
  | spi d => exact State.spiAt_setSpi_other s x fun hd => h (hd ▸ rfl)
  | i2c d => rfl

theorem SameInst.setI2c (s : State) (b : BusId) (x : I2cBus) {e : InstId} (h : e ≠ .i2c b) :
    SameInst s (s.setI2c b x) e := by
  cases e with
  | spi d => rfl
  | i2c d => exact State.i2cAt_setI2c_other s x fun hd => h (hd ▸ rfl)

theorem SameInst.setMe (s : State) (m : Ctx) (e : InstId) : SameInst s (s.setMe m) e := by cases e <;> rfl

/-! ## What one micro-step of a command does to control -/

/-- How the owner of its bus and the position of a command in context c move in one micro-step (R26, R27, R222). -/
inductive Move (c : Nat) (i : Instr) : Option Nat → Pos → Option Nat → Pos → Prop
  /-- A refused memory access or a halt. -/
  | stay (o : Option Nat) (p : Pos) : Move c i o p o p
  /-- A halt right after the claim. -/
  | claim : Move c i none .start (some c) .start
  /-- The claim with the first access. -/
  | enter (q : Pos) (hq : holdsAt i q = true) (hf : posFits i q = true) : Move c i none .start (some c) q
  /-- A micro-step with the bus held. -/
  | work (o : Option Nat) (p q : Pos) (hp : holdsAt i p = true) (hq : holdsAt i q = true) (hf : posFits i q = true) :
      Move c i o p o q
  /-- The release of the bus. -/
  | release (o : Option Nat) (p q : Pos) (hp : holdsAt i p = true) (hq : holdsAt i q = false)
      (hf : q = .ready ∨ posFits i q = true) : Move c i o p none q
  /-- A micro-step that neither holds nor claims the bus. -/
  | outside (o : Option Nat) (p q : Pos) (hp : holdsAt i p = false) (hq : holdsAt i q = false)
      (hf : q = .ready ∨ posFits i q = true) : Move c i o p o q

/-- How the device state of its bus moves with the position of a command (R33, R36). -/
inductive DevMove (i : Instr) : Pos → DevState → Pos → DevState → Prop
  | keep (p q : Pos) (d : DevState) (h : xferRuns q = xferRuns p) : DevMove i p d q d
  | init (bus : BitVec 4) (d : DevState) (hi : i = .i2cInit bus) : DevMove i .start d (.init .flags) .disabled
  | enable (bus flags : BitVec 4) (d : DevState) (hi : i = .i2cMasterEnable bus flags) :
      DevMove i (.enabling .state) d (.enabling .enable) .idle
  | guard (bus : BitVec 4) (d : DevState) (q : Pos) (hi : i = .i2cMasterXfer bus) (hd : guardOpen d = true)
      (hq : xferRuns q = true) : DevMove i .start d q .busy
  | exit (bus : BitVec 4) (m : Msg) (d : DevState) (e : Exit) (hi : i = .i2cMasterXfer bus) :
      DevMove i (.xfer m (.exitState e)) d (.xfer m (.exitFlight e)) e.devState

/-- What one micro-step of command i, whose bus is `inst`, does to control and to RES. -/
structure Micro (i : Instr) (inst : InstId) (s t : State) : Prop where
  others : ∀ e, e ≠ inst → SameInst s t e
  frame  : SameInst s t inst ∨ holdsAt i s.me.pos = true ∨ (s.me.pos = .start ∧ s.ownerOf inst = none)
  move   : Move s.cur i (s.ownerOf inst) s.me.pos (t.ownerOf inst) t.me.pos
  dev    : DevMove i s.me.pos (s.devAt inst) t.me.pos (t.devAt inst)
  timing : programsTiming t.me.pos = true →
    t.peAt inst = false ∨ (t.me.pos = s.me.pos ∧ t.peAt inst = s.peAt inst)
  res    : i.writesRes = false → t.me.res = s.me.res ∧ t.me.resWritten = s.me.resWritten

/-- What one micro-step of command i can answer: a next state; a fault at a position that is not its own; a refusal where it
programs a timing register of an enabled peripheral. -/
inductive Answers (i : Instr) (inst : InstId) (s : State) : Result → Prop
  | next {t : State} (h : Micro i inst s t) : Answers i inst s (.next t)
  | lost (h : posFits i s.me.pos = false) : Answers i inst s (.fault .lostPosition)
  | refused (hp : programsTiming s.me.pos = true) (hpe : s.peAt inst = true) :
      Answers i inst s (.refused .timingWhileEnabled)

/-! ## Inside a micro-step -/

/-- `v` comes from `u` by accesses that keep the owner and the device state of one bus and touch no other. -/
structure Works (inst : InstId) (u v : State) : Prop where
  ctxs   : v.ctxs = u.ctxs
  turn   : v.turn = u.turn
  others : ∀ e, e ≠ inst → SameInst u v e
  owner  : v.ownerOf inst = u.ownerOf inst
  dev    : v.devAt inst = u.devAt inst

theorem Works.setSpi {u : State} {b : BusId} {x : SpiBus} (h : x.inflight = (u.spiAt b).inflight) :
    Works (.spi b) u (u.setSpi b x) where
  ctxs := rfl
  turn := rfl
  others _ := SameInst.setSpi u b x
  owner := by simpa [State.ownerOf] using h
  dev := rfl

theorem Works.setI2c {u : State} {b : BusId} {x : I2cBus} (h : x.inflight = (u.i2cAt b).inflight)
    (hd : x.dev.state = (u.i2cAt b).dev.state) : Works (.i2c b) u (u.setI2c b x) where
  ctxs := rfl
  turn := rfl
  others _ := SameInst.setI2c u b x
  owner := by simpa [State.ownerOf] using h
  dev := by simpa [State.devAt] using hd

theorem Works.emit (inst : InstId) (u : State) (e : BusEvent) : Works inst u (u.emit e) where
  ctxs := rfl
  turn := rfl
  others e _ := by cases e <;> rfl
  owner := by cases inst <;> rfl
  dev := by cases inst <;> rfl

theorem Works.setMem (inst : InstId) (u : State) (m : Memory) : Works inst u (u.setMem m) where
  ctxs := rfl
  turn := rfl
  others e _ := by cases e <;> rfl
  owner := by cases inst <;> rfl
  dev := by cases inst <;> rfl

/-- `u` is a state inside the micro-step of command i that begins in `s`: the bus is held since an earlier micro-step,
or has been claimed in this one, and no other has been touched. -/
structure Owns (i : Instr) (inst : InstId) (s u : State) : Prop where
  here   : s.cur < s.ctxs.length
  ctxs   : u.ctxs = s.ctxs
  turn   : u.turn = s.turn
  others : ∀ e, e ≠ inst → SameInst s u e
  owned  : (holdsAt i s.me.pos = true ∧ u.ownerOf inst = s.ownerOf inst) ∨
    (s.me.pos = .start ∧ s.ownerOf inst = none ∧ u.ownerOf inst = some s.cur)

/-- So far the micro-step has kept the device state. -/
structure Inside (i : Instr) (inst : InstId) (s u : State) : Prop extends Owns i inst s u where
  dev : u.devAt inst = s.devAt inst

section Inside

variable {i : Instr} {inst : InstId} {s u v : State}

theorem Owns.cur_eq (hu : Owns i inst s u) : u.cur = s.cur := by rw [State.cur, hu.turn, State.cur]

theorem Owns.cur_lt (hu : Owns i inst s u) : u.cur < u.ctxs.length := by rw [hu.cur_eq, hu.ctxs]; exact hu.here

theorem Owns.me_eq (hu : Owns i inst s u) : u.me = s.me := by
  rw [State.me, State.me, hu.cur_eq, State.ctxAt, State.ctxAt, hu.ctxs]

/-- The bus is the running context's to touch. -/
theorem Owns.entered (hu : Owns i inst s u) :
    holdsAt i s.me.pos = true ∨ (s.me.pos = .start ∧ s.ownerOf inst = none) :=
  hu.owned.imp And.left fun ⟨hp, ho, _⟩ => ⟨hp, ho⟩

/-- Going on to a position that holds the bus. -/
theorem Owns.move (hu : Owns i inst s u) {q : Pos} (hq : holdsAt i q = true) (hf : posFits i q = true) :
    Move s.cur i (s.ownerOf inst) s.me.pos (u.ownerOf inst) q := by
  rcases hu.owned with ⟨hh, ho⟩ | ⟨hp, hn, ho⟩ <;> rw [ho]
  · exact .work _ _ _ hh hq hf
  · rw [hp, hn]; exact .enter q hq hf

/-- A replacement of the running context ends the micro-step. -/
theorem Owns.micro (hu : Owns i inst s u) {m : Ctx}
    (hmove : Move s.cur i (s.ownerOf inst) s.me.pos (u.ownerOf inst) m.pos)
    (hdev : DevMove i s.me.pos (s.devAt inst) m.pos (u.devAt inst))
    (ht : programsTiming m.pos = true → u.peAt inst = false ∨ (m.pos = s.me.pos ∧ u.peAt inst = s.peAt inst))
    (hr : i.writesRes = false → m.res = s.me.res ∧ m.resWritten = s.me.resWritten) : Micro i inst s (u.setMe m) := by
  have hsame : SameInst u (u.setMe m) inst := .setMe u m inst
  have hme : (u.setMe m).me = m := State.me_setMe hu.cur_lt m
  constructor
  case others => exact fun e he => (hu.others e he).trans (.setMe u m e)
  case frame => exact .inr hu.entered
  case move => rw [hsame.ownerOf, hme]; exact hmove
  case dev => rw [hsame.devAt, hme]; exact hdev
  case timing => rw [hsame.peAt, hme]; exact ht
  case res => rw [hme]; exact hr

/-- The running context goes on to a position that holds the bus. -/
theorem Owns.goto (hu : Owns i inst s u) {q : Pos} (hq : holdsAt i q = true) (hf : posFits i q = true)
    (hdev : DevMove i s.me.pos (s.devAt inst) q (u.devAt inst))
    (ht : programsTiming q = true → u.peAt inst = false) : Answers i inst s (.next (u.goto q)) :=
  .next (hu.micro (hu.move hq hf) hdev (fun h => .inl (ht h)) fun _ => by rw [hu.me_eq]; exact ⟨rfl, rfl⟩)

/-- At a position that holds the bus nothing has to be claimed. -/
theorem Inside.refl (hl : s.cur < s.ctxs.length) (hh : holdsAt i s.me.pos = true) : Inside i inst s s where
  here := hl
  ctxs := rfl
  turn := rfl
  others _ _ := .refl ..
  owned := .inl ⟨hh, rfl⟩
  dev := rfl

theorem Inside.works (hu : Inside i inst s u) (hw : Works inst u v) : Inside i inst s v where
  here := hu.here
  ctxs := hw.ctxs.trans hu.ctxs
  turn := hw.turn.trans hu.turn
  others e he := (hu.others e he).trans (hw.others e he)
  owned := by rw [hw.owner]; exact hu.owned
  dev := hw.dev.trans hu.dev

/-- The device state stays, and the transfer, if it is one, is under way as before. -/
theorem Inside.keep (hu : Inside i inst s u) {q : Pos} (hx : xferRuns q = xferRuns s.me.pos) :
    DevMove i s.me.pos (s.devAt inst) q (u.devAt inst) := by
  rw [hu.dev]; exact .keep _ _ _ hx

/-- The running context stays where it is: a halt or a refused memory access. -/
theorem Inside.stay (hu : Inside i inst s u) (hpe : u.peAt inst = s.peAt inst) {m : Ctx}
    (hm : m.pos = s.me.pos ∧ m.res = s.me.res ∧ m.resWritten = s.me.resWritten) : Micro i inst s (u.setMe m) := by
  obtain ⟨hpos, hres⟩ := hm
  refine hu.micro ?_ (hu.keep (by rw [hpos])) (fun _ => .inr ⟨hpos, hpe⟩) fun _ => hres
  rw [hpos]
  rcases hu.owned with ⟨_, ho⟩ | ⟨hp, hn, ho⟩ <;> rw [ho]
  · exact .stay ..
  · rw [hp, hn]; exact .claim

theorem Inside.halt (hu : Inside i inst s u) (hpe : u.peAt inst = s.peAt inst) (k : ErrorKind) :
    Answers i inst s (raise k u) :=
  .next (hu.stay hpe (by rw [hu.me_eq]; exact ⟨rfl, rfl, rfl⟩))

theorem Inside.memAccess (hu : Inside i inst s u) (hpe : u.peAt inst = s.peAt inst) {a n : Nat} {k : Result}
    (h : Answers i inst s k) : Answers i inst s (memAccess a n u k) := by
  rcases memAccess_cases a n u k with ⟨_, e⟩ | ⟨_, e⟩ <;> rw [e]
  · rw [← State.setMe_me u]
    exact .next (hu.stay hpe (by rw [hu.me_eq]; exact ⟨rfl, rfl, rfl⟩))
  · exact h

/-- The bus is given back, from a position that holds it or right after the claim, and the command goes on outside. -/
theorem Inside.release (hu : Inside i inst s u) (v : State) (m : Ctx) (hctxs : v.ctxs = u.ctxs) (hturn : v.turn = u.turn)
    (hdev : v.devAt inst = u.devAt inst) (hothers : ∀ e, e ≠ inst → SameInst u v e) (hfree : v.ownerOf inst = none)
    (hq : holdsAt i m.pos = false) (hf : m.pos = .ready ∨ posFits i m.pos = true)
    (hx : xferRuns m.pos = xferRuns s.me.pos) (ht : programsTiming m.pos = false)
    (hr : m.res = v.me.res ∧ m.resWritten = v.me.resWritten) : Micro i inst s (v.setMe m) := by
  have hcur : v.cur = s.cur := by rw [State.cur, hturn, hu.turn, State.cur]
  have hme : v.me = s.me := by rw [State.me, State.me, hcur, State.ctxAt, State.ctxAt, hctxs, hu.ctxs]
  have hset : (v.setMe m).me = m := State.me_setMe (by rw [hcur, hctxs, hu.ctxs]; exact hu.here) m
  have hsame : SameInst v (v.setMe m) inst := .setMe ..
  constructor
  case others => exact fun e he => ((hu.others e he).trans (hothers e he)).trans (.setMe ..)
  case frame => exact .inr hu.entered
  case move =>
    rw [hsame.ownerOf, hfree, hset]
    rcases hu.owned with ⟨hh, _⟩ | ⟨hp, hn, _⟩
    · exact .release _ _ _ hh hq hf
    · rw [hp, hn]; exact .outside _ _ _ (holdsAt_start i) hq hf
  case dev => rw [hsame.devAt, hdev, hu.dev, hset]; exact .keep _ _ _ hx
  case timing => rw [hset, ht]; exact nofun
  case res => rw [hset, ← hme]; exact fun _ => hr

/-- A micro-step that leaves the bus alone: of a calculator, of a transfer that holds its bus no more, or the
rejection by its guard. -/
theorem Micro.outside (hl : s.cur < s.ctxs.length) {m : Ctx} (hp : holdsAt i s.me.pos = false)
    (hq : holdsAt i m.pos = false) (hf : m.pos = .ready ∨ posFits i m.pos = true)
    (hx : xferRuns m.pos = xferRuns s.me.pos) (ht : programsTiming m.pos = false)
    (hr : i.writesRes = false → m.res = s.me.res ∧ m.resWritten = s.me.resWritten) : Micro i inst s (s.setMe m) := by
  have hme := State.me_setMe hl m
  have hsame : SameInst s (s.setMe m) inst := .setMe ..
  constructor
  case others => exact fun _ _ => .setMe ..
  case frame => exact .inl hsame
  case move => rw [hsame.ownerOf, hme]; exact .outside _ _ _ hp hq hf
  case dev => rw [hsame.devAt, hme]; exact .keep _ _ _ hx
  case timing => rw [hme, ht]; exact nofun
  case res => rw [hme]; exact hr

/-- A halt in `s` itself. -/
theorem Micro.halted (hl : s.cur < s.ctxs.length) (k : ErrorKind) : Micro i inst s (s.halted k) := by
  have hme : (s.halted k).me = _ := State.me_setMe hl _
  have hsame : SameInst s (s.halted k) inst := .setMe ..
  constructor
  case others => exact fun _ _ => .setMe ..
  case frame => exact .inl hsame
  case move => rw [hsame.ownerOf, hme]; exact .stay ..
  case dev => rw [hsame.devAt, hme]; exact .keep _ _ _ rfl
  case timing => rw [hsame.peAt, hme]; exact fun _ => .inr ⟨rfl, rfl⟩
  case res => rw [hme]; exact fun _ => ⟨rfl, rfl⟩

end Inside

/-! ## The claim of the bus (R222) -/

section Claim

variable {i : Instr} {s u : State} {b : BusId}

theorem Inside.claimSpi (hl : s.cur < s.ctxs.length) (hp : s.me.pos = .start) (hf : (s.spiAt b).inflight = none) :
    Inside i (.spi b) s (s.setSpi b { s.spiAt b with inflight := some s.cur }) where
  here := hl
  ctxs := rfl
  turn := rfl
  others _ := SameInst.setSpi s b _
  owned := .inr ⟨hp, hf, by simp [State.ownerOf]⟩
  dev := rfl

theorem Inside.claimI2c (hl : s.cur < s.ctxs.length) (hp : s.me.pos = .start) (hf : (s.i2cAt b).inflight = none) :
    Inside i (.i2c b) s (s.setI2c b { s.i2cAt b with inflight := some s.cur }) where
  here := hl
  ctxs := rfl
  turn := rfl
  others _ := SameInst.setI2c s b _
  owned := .inr ⟨hp, hf, by simp [State.ownerOf]⟩
  dev := by simp [State.devAt]

theorem Answers.acquireSpi {k : State → Result} (hl : s.cur < s.ctxs.length) (hp : s.me.pos = .start)
    (h : ∀ u, Inside i (.spi b) s u → Answers i (.spi b) s (k u)) : Answers i (.spi b) s (acquireSpi b s k) := by
  rcases acquireSpi_cases b s k with ⟨_, _, e⟩ | ⟨hf, e⟩ <;> rw [e]
  · exact .next (.halted hl _)
  · exact h _ (.claimSpi hl hp hf)

theorem Answers.acquireI2c {k : State → Result} (hl : s.cur < s.ctxs.length) (hp : s.me.pos = .start)
    (h : ∀ u, Inside i (.i2c b) s u → u.peAt (.i2c b) = s.peAt (.i2c b) → Answers i (.i2c b) s (k u)) :
    Answers i (.i2c b) s (acquireI2c b s k) := by
  rcases acquireI2c_cases b s k with ⟨_, _, e⟩ | ⟨hf, e⟩ <;> rw [e]
  · exact .next (.halted hl _)
  · exact h _ (.claimI2c hl hp hf) (by simp [State.peAt, I2cBus.pe])

end Claim

/-- The running context after RES was written. -/
theorem State.me_setRes {s : State} (hl : s.cur < s.ctxs.length) (v : Word) :
    (s.setRes v).me = { s.me with res := v, resWritten := true } := State.me_setMe hl _

/-- Writing RES and moving on replaces the running context once. -/
theorem State.setRes_goto {s : State} (hl : s.cur < s.ctxs.length) (v : Word) (p : Pos) :
    (s.setRes v).goto p = s.setMe { s.me with res := v, resWritten := true, pos := p } := by
  rw [State.goto, State.me_setRes hl, State.setRes, State.setMe_setMe]

/-- A command that holds its bus to the end writes RES and goes to its return. -/
theorem Inside.resultRet {i : Instr} {inst : InstId} {s u : State} (hu : Inside i inst s u)
    (hw : i.writesRes = true) (hh : holdsAt i .ret = true) (hx : xferRuns s.me.pos = false) {v : Word} :
    Answers i inst s (.next ((u.setRes v).goto .ret)) := by
  rw [State.setRes_goto hu.cur_lt]
  exact .next (hu.micro (hu.move hh rfl) (hu.keep hx.symm) nofun fun h => nomatch hw.symm.trans h)

/-! ## The SPI commands -/

section Spi

variable {i : Instr} {s u : State} {b : BusId}

/-- On an SPI bus no timing is programmed and no transfer runs. -/
theorem Inside.gotoSpi (hu : Inside i (.spi b) s u) (hx : xferRuns s.me.pos = false) {q : Pos}
    (hq : holdsAt i q = true) (hf : posFits i q = true) (hxq : xferRuns q = false) :
    Answers i (.spi b) s (.next (u.goto q)) :=
  hu.goto hq hf (hu.keep (hxq.trans hx.symm)) fun _ => rfl

theorem Inside.finishSpi (hu : Inside i (.spi b) s u) (hx : xferRuns s.me.pos = false)
    (hready : holdsAt i .ready = false) : Answers i (.spi b) s (finishSpi b u) :=
  .next (hu.release (u.setSpi b { u.spiAt b with inflight := none }) { u.me with pos := .ready, cc := u.me.cc + 1 }
    rfl rfl rfl (fun _ => SameInst.setSpi u b _) (by simp [State.ownerOf]) hready (.inl rfl) hx.symm rfl ⟨rfl, rfl⟩)

theorem Inside.spiPoll (hu : Inside i (.spi b) s u) {k : Word → State → Result}
    (h : ∀ w v, Inside i (.spi b) s v → Answers i (.spi b) s (k w v)) : Answers i (.spi b) s (spiPoll b u k) :=
  h _ _ (hu.works (.setSpi rfl))

theorem Inside.spiTake (hu : Inside i (.spi b) s u) {k : Byte → State → Result}
    (h : ∀ w v, Inside i (.spi b) s v → Answers i (.spi b) s (k w v)) : Answers i (.spi b) s (spiTake b u k) :=
  h _ _ (hu.works (.setSpi rfl))

theorem Inside.spiWriteCr1 (hu : Inside i (.spi b) s u) {w : Word} {k : State → Result}
    (h : ∀ v, Inside i (.spi b) s v → Answers i (.spi b) s (k v)) : Answers i (.spi b) s (spiWriteCr1 b w u k) := by
  rcases spiWriteCr1_cases b w u k with ⟨_, e⟩ | ⟨_, e⟩ <;> rw [e]
  · exact hu.halt rfl _
  · exact h _ (hu.works (.setSpi rfl))

theorem Inside.pinConfigSpi (hu : Inside i (.spi b) s u) (c : PinState) : Inside i (.spi b) s (pinConfigSpi b c u) :=
  (hu.works (.setSpi (x := { u.spiAt b with pins := c }) rfl)).works (.emit ..)

theorem Inside.writeSpiDr (hu : Inside i (.spi b) s u) (w : Word) :
    Inside i (.spi b) s (u.setSpi b ((u.spiAt b).writeDr w)) := hu.works (.setSpi rfl)

theorem Inside.spiReconfigure (hu : Inside i (.spi b) s u) (hx : xferRuns s.me.pos = false)
    (hh : ∀ p, holdsAt i (.cfg p) = true) (hf : ∀ p, posFits i (.cfg p) = true) :
    Answers i (.spi b) s (spiReconfigure b u) :=
  hu.spiWriteCr1 fun _ hv => hv.gotoSpi hx (hh _) (hf _) rfl

theorem Inside.spiReconfigureStep (hu : Inside i (.spi b) s u) (hx : xferRuns s.me.pos = false)
    (hh : ∀ p, holdsAt i (.cfg p) = true) (hf : ∀ p, posFits i (.cfg p) = true) (hret : holdsAt i .ret = true)
    (cr1 : Word) (c : PinState) (p : CfgPos) : Answers i (.spi b) s (spiReconfigureStep b cr1 c p u) := by
  cases p with
  | writeCr1 => exact hu.spiWriteCr1 fun _ hv => hv.gotoSpi hx (hh _) (hf _) rfl
  | pins => exact (hu.pinConfigSpi c).gotoSpi hx (hh _) (hf _) rfl
  | enable => exact hu.spiWriteCr1 fun _ hv => hv.gotoSpi hx hret rfl rfl

theorem Inside.spiEndStep {bus : BitVec 4} (hu : Inside (.spiEnd bus) (.spi b) s u) (hx : xferRuns s.me.pos = false)
    (p : EndPos) : Answers (.spiEnd bus) (.spi b) s (spiEndStep b p u) := by
  cases p with
  | drain => exact hu.spiPoll fun _ _ hv => hv.gotoSpi hx rfl rfl rfl
  | discard => exact hu.spiTake fun _ _ hv => hv.gotoSpi hx rfl rfl rfl
  | waitTxe => exact hu.spiPoll fun _ _ hv => hv.gotoSpi hx rfl rfl rfl
  | waitBsy => exact hu.spiPoll fun _ _ hv => hv.gotoSpi hx rfl rfl rfl
  | disable => exact hu.spiWriteCr1 fun _ hv => hv.gotoSpi hx rfl rfl rfl

theorem Inside.spiReadStep {bus : BitVec 4} (hu : Inside (.spiRead bus) (.spi b) s u) (hx : xferRuns s.me.pos = false)
    (buf len : Word) (p : ReadPos) : Answers (.spiRead bus) (.spi b) s (spiReadStep b buf len p u) := by
  cases p with
  | wait k => exact hu.spiPoll fun _ _ hv => hv.gotoSpi hx rfl rfl rfl
  | data k => exact hu.spiTake fun _ _ hv => hv.gotoSpi hx rfl rfl rfl
  | store k v =>
    refine hu.memAccess rfl ?_
    unfold spiReadNext
    split <;> exact (hu.works (.setMem ..)).gotoSpi hx rfl rfl rfl

theorem Inside.spiWriteStep {bus : BitVec 4} (hu : Inside (.spiWrite bus) (.spi b) s u)
    (hx : xferRuns s.me.pos = false) (buf len : Word) (p : WritePos) :
    Answers (.spiWrite bus) (.spi b) s (spiWriteStep b buf len p u) := by
  cases p with
  | status txed t =>
    unfold Machine.spiWriteStep spiWriteNext
    refine hu.spiPoll fun _ _ hv => ?_
    split
    · split <;> exact hv.gotoSpi hx rfl rfl rfl
    · exact hv.gotoSpi hx rfl rfl rfl
  | fetch txed t => exact hu.memAccess rfl (hu.gotoSpi hx rfl rfl rfl)
  | data txed t v => exact (hu.writeSpiDr _).gotoSpi hx rfl rfl rfl

theorem Inside.spiTransferStep {bus : BitVec 4} {byte : BitVec 8} (hu : Inside (.spiTransfer bus byte) (.spi b) s u)
    (hx : xferRuns s.me.pos = false) (p : TransferPos) :
    Answers (.spiTransfer bus byte) (.spi b) s (spiTransferStep b byte p u) := by
  cases p with
  | status => exact hu.spiPoll fun _ _ hv => hv.gotoSpi hx (by split <;> rfl) (by split <;> rfl) (by split <;> rfl)
  | write => exact (hu.writeSpiDr _).gotoSpi hx rfl rfl rfl
  | close => exact hu.spiPoll fun _ _ hv => hv.gotoSpi hx rfl rfl rfl
  | wait => exact hu.spiPoll fun _ _ hv => hv.gotoSpi hx rfl rfl rfl
  | data => exact hu.spiTake fun _ _ hv => hv.gotoSpi hx rfl rfl rfl
  | result r => exact hu.resultRet rfl rfl hx

end Spi

/-! ## The I2C device commands -/

/-- A write of I2C CR1 keeps the owner and the engine's state (R73, R201). -/
theorem I2cBus.writeCr1_keeps (x : I2cBus) (w : Word) :
    (x.writeCr1 w).inflight = x.inflight ∧ (x.writeCr1 w).dev = x.dev := by
  rcases x.writeCr1_cases w with ⟨_, _, e⟩ | ⟨_, e⟩ <;> rw [e] <;> exact ⟨rfl, rfl⟩

/-- So does a read of SR2 (R73, R196). -/
theorem I2cBus.readSr2_keeps (x : I2cBus) : x.readSr2.2.inflight = x.inflight ∧ x.readSr2.2.dev = x.dev := by
  rcases x.readSr2_cases with ⟨_, e⟩ | ⟨_, _, _, e⟩ | ⟨_, _, _, _, e⟩ | ⟨_, _, _, _, e⟩ <;> rw [e] <;>
    exact ⟨rfl, rfl⟩

/-- The PE clear (R143, R201). -/
theorem I2cBus.pe_writeCr1_clear (x : I2cBus) : (x.writeCr1 (clearBit x.cr1 i2cPE)).pe = false := by
  have hbit : testBit (clearBit x.cr1 i2cPE) i2cPE = false := by rw [testBit_clearBit]; simp
  rcases x.writeCr1_cases (clearBit x.cr1 i2cPE) with ⟨_, _, e⟩ | ⟨_, e⟩ <;> rw [e] <;>
    simp only [I2cBus.pe, testBit_clearBit, testBit_and, hbit, Bool.false_and]

section I2c

variable {i : Instr} {s u v : State} {b : BusId}

theorem Inside.setI2c (hu : Inside i (.i2c b) s u) (x : I2cBus) (ho : x.inflight = (u.i2cAt b).inflight)
    (hd : x.dev.state = (u.i2cAt b).dev.state) : Inside i (.i2c b) s (u.setI2c b x) :=
  hu.works (.setI2c ho hd)

/-- The device state is the only thing that changes. -/
theorem Owns.setDevState (hu : Owns i (.i2c b) s u) (d : DevState) :
    Owns i (.i2c b) s (u.setDev b { (u.i2cAt b).dev with state := d }) where
  here := hu.here
  ctxs := hu.ctxs
  turn := hu.turn
  others e he := (hu.others e he).trans (.setI2c u b _ he)
  owned := by
    have ho : (u.setDev b { (u.i2cAt b).dev with state := d }).ownerOf (.i2c b) = u.ownerOf (.i2c b) := by
      simp [State.ownerOf, State.setDev]
    rw [ho]
    exact hu.owned

theorem State.devAt_setDevState (u : State) (b : BusId) (d : DevState) :
    (u.setDev b { (u.i2cAt b).dev with state := d }).devAt (.i2c b) = d := by
  simp [State.devAt, State.setDev]

/-- No transfer, and no timing register next. -/
theorem Inside.gotoI2c (hu : Inside i (.i2c b) s u) (hx : xferRuns s.me.pos = false) {q : Pos}
    (hq : holdsAt i q = true) (hf : posFits i q = true) (hxq : xferRuns q = false) (ht : programsTiming q = false) :
    Answers i (.i2c b) s (.next (u.goto q)) :=
  hu.goto hq hf (hu.keep (hxq.trans hx.symm)) fun h => nomatch ht.symm.trans h

theorem Inside.finishI2c (hu : Inside i (.i2c b) s u) (hx : xferRuns s.me.pos = false)
    (hready : holdsAt i .ready = false) : Answers i (.i2c b) s (finishI2c b u) :=
  .next (hu.release (u.setI2c b { u.i2cAt b with inflight := none }) { u.me with pos := .ready, cc := u.me.cc + 1 }
    rfl rfl (by simp [State.devAt]) (fun _ => SameInst.setI2c u b _) (by simp [State.ownerOf]) hready (.inl rfl)
    hx.symm rfl ⟨rfl, rfl⟩)

theorem Inside.pinConfigI2c (hu : Inside i (.i2c b) s u) (c : PinState) : Inside i (.i2c b) s (pinConfigI2c b c u) :=
  (hu.setI2c { u.i2cAt b with pins := c } rfl rfl).works (.emit ..)

theorem Inside.gpioWrite (hu : Inside i (.i2c b) s u) (l : Line) (w : Bool) :
    Inside i (.i2c b) s (gpioWrite b l w u) := by
  cases l
  · exact (hu.setI2c { u.i2cAt b with gpioScl := w } rfl rfl).works (.emit ..)
  · exact (hu.setI2c { u.i2cAt b with gpioSda := w } rfl rfl).works (.emit ..)

theorem Inside.delayFor (hu : Inside i (.i2c b) s u) (n : Nat) : Inside i (.i2c b) s (delayFor n u) :=
  hu.works (.emit ..)

theorem Inside.i2cInitStep {bus : BitVec 4} (hu : Inside (.i2cInit bus) (.i2c b) s u) (hx : xferRuns s.me.pos = false)
    (p : InitPos) : Answers (.i2cInit bus) (.i2c b) s (i2cInitStep b p u) := by
  cases p with
  | flags =>
    have hv := hu.setI2c { u.i2cAt b with dev := { (u.i2cAt b).dev with errorFlags := 0 } } rfl rfl
    exact hv.gotoI2c hx rfl rfl rfl rfl
  | reset => exact (hu.setI2c (u.i2cAt b).peripheralReset rfl rfl).gotoI2c hx rfl rfl rfl rfl

/-- A command whose bus reset ends at `done`. -/
structure ResetsBus (i : Instr) (done : Pos) : Prop where
  holds    : ∀ p, holdsAt i (.busReset p) = true
  fits     : ∀ p, posFits i (.busReset p) = true
  holdsEnd : holdsAt i done = true
  fitsEnd  : posFits i done = true
  idleEnd  : xferRuns done = false
  timeEnd  : programsTiming done = false

theorem Inside.busResetStep (hu : Inside i (.i2c b) s u) (hx : xferRuns s.me.pos = false) {done : Pos}
    (hi : ResetsBus i done) (p : BusResetPos) : Answers i (.i2c b) s (busResetStep b p done u) := by
  have hgo {v : State} (hv : Inside i (.i2c b) s v) (q : BusResetPos) :
      Answers i (.i2c b) s (.next (v.goto (.busReset q))) := hv.gotoI2c hx (hi.holds q) (hi.fits q) rfl rfl
  cases p with
  | releaseScl | releaseSda | clockLow | clockHigh | startSda | startScl | stopScl => exact hgo (hu.gpioWrite ..) _
  | gpioMode => exact hgo (hu.pinConfigI2c _) _
  | readSda | readScl => exact hgo hu _
  | delay1 | delay2 | delay3 | delay4 | delay5 | delay6 => exact hgo (hu.delayFor _) _
  | stopSda => exact (hu.gpioWrite ..).gotoI2c hx hi.holdsEnd hi.fitsEnd hi.idleEnd hi.timeEnd

/-- The write of a timing register: refused while the peripheral is enabled, and after it the peripheral is still disabled
(R225). -/
theorem Inside.writeTiming (hs : Inside i (.i2c b) s s) (hp : programsTiming s.me.pos = true) (f : I2cBus → I2cBus)
    (q : Pos) (hf : ∀ x, (f x).inflight = x.inflight ∧ (f x).dev = x.dev ∧ (f x).cr1 = x.cr1)
    (hx : xferRuns s.me.pos = false) (hq : holdsAt i q = true) (hfit : posFits i q = true) (hxq : xferRuns q = false) :
    Answers i (.i2c b) s (i2cWriteTiming b f s fun s => .next (s.goto q)) := by
  obtain ⟨ho, hd, hcr1⟩ := hf (s.i2cAt b)
  rcases i2cWriteTiming_cases b f s fun s => .next (s.goto q) with ⟨hpe, e⟩ | ⟨hpe, e⟩ <;> rw [e]
  · exact .refused hp hpe
  · have hv := hs.setI2c (f (s.i2cAt b)) ho (by rw [hd])
    exact hv.goto hq hfit (hv.keep (hxq.trans hx.symm)) fun _ => by
      simpa [State.peAt, I2cBus.pe, hcr1] using hpe

theorem Inside.i2cEnableStep {bus flags : BitVec 4} (hs : Inside (.i2cMasterEnable bus flags) (.i2c b) s s)
    {p : EnablePos} (hp : s.me.pos = .enabling p) (t : Timing) :
    Answers (.i2cMasterEnable bus flags) (.i2c b) s (i2cEnableStep b flags t p s) := by
  have hx : xferRuns s.me.pos = false := by rw [hp]; rfl
  cases p with
  | cr2 =>
    have htime : programsTiming s.me.pos = true := by rw [hp]; rfl
    exact hs.writeTiming htime (·.writeCr2 t.cr2) (.enabling .ccr) (fun _ => ⟨rfl, rfl, rfl⟩) hx rfl rfl rfl
  | ccr =>
    have htime : programsTiming s.me.pos = true := by rw [hp]; rfl
    exact hs.writeTiming htime (·.writeCcr t.ccrReg) (.enabling .trise) (fun _ => ⟨rfl, rfl, rfl⟩) hx rfl rfl rfl
  | trise =>
    have htime : programsTiming s.me.pos = true := by rw [hp]; rfl
    exact hs.writeTiming htime (·.writeTrise t.triseReg)
      (if flags.getLsbD 3 then .busReset .releaseScl else .enabling .pins) (fun _ => ⟨rfl, rfl, rfl⟩) hx
      (by split <;> rfl) (by split <;> rfl) (by split <;> rfl)
  | pins => exact (hs.pinConfigI2c _).gotoI2c hx rfl rfl rfl rfl
  | state =>
    refine (hs.setDevState .idle).goto rfl rfl ?_ nofun
    rw [hp, State.devAt_setDevState]
    exact .enable bus flags _ rfl
  | enable =>
    obtain ⟨ho, hd⟩ := (s.i2cAt b).writeCr1_keeps (setBit (s.i2cAt b).cr1 i2cPE)
    exact (hs.setI2c _ ho (by rw [hd])).gotoI2c hx rfl rfl rfl rfl

end I2c

/-! ## I2C.MASTER_XFER -/

section Xfer

variable {bus : BitVec 4} {s u v : State} {b : BusId} {m : Msg}

/-- A transfer goes on (R153). -/
theorem Inside.gotoXfer (hu : Inside (.i2cMasterXfer bus) (.i2c b) s u) (hx : xferRuns s.me.pos = true) {q : Pos}
    (hq : xferRuns q = true) : Answers (.i2cMasterXfer bus) (.i2c b) s (.next (u.goto q)) :=
  have hf : posFits (.i2cMasterXfer bus) q = true := posFits_of_xferRuns bus hq
  hu.goto (holdsAt_of_xferRuns hf hq) hf (hu.keep (hq.trans hx.symm)) fun h =>
    nomatch (programsTiming_of_xferRuns hq).symm.trans h

theorem Inside.setDev (hu : Inside (.i2cMasterXfer bus) (.i2c b) s u) (d : Dev)
    (hd : d.state = (u.i2cAt b).dev.state) : Inside (.i2cMasterXfer bus) (.i2c b) s (u.setDev b d) :=
  hu.setI2c _ rfl hd

theorem Inside.setCursor (hu : Inside (.i2cMasterXfer bus) (.i2c b) s u) (c : Cursor) :
    Inside (.i2cMasterXfer bus) (.i2c b) s (u.setCursor b c) := hu.setDev _ rfl

theorem Inside.modifyI2cCr1 (hu : Inside (.i2cMasterXfer bus) (.i2c b) s u) (w : Word) :
    Inside (.i2cMasterXfer bus) (.i2c b) s (u.modifyI2cCr1 b w) := by
  obtain ⟨ho, hd⟩ := (u.i2cAt b).writeCr1_keeps w
  exact hu.setI2c _ ho (by rw [hd])

theorem Inside.writeI2cDr (hu : Inside (.i2cMasterXfer bus) (.i2c b) s u) (w : Byte) :
    Inside (.i2cMasterXfer bus) (.i2c b) s (u.writeI2cDr b w) := hu.setI2c _ rfl rfl

theorem Inside.readI2cSr2 (hu : Inside (.i2cMasterXfer bus) (.i2c b) s u) :
    Inside (.i2cMasterXfer bus) (.i2c b) s (u.readI2cSr2 b) := by
  obtain ⟨ho, hd⟩ := (u.i2cAt b).readSr2_keeps
  exact hu.setI2c _ ho (by rw [hd])

theorem xferRuns_validateNext (j : Nat) (count addr flags len : Half) :
    xferRuns (validateNext j count addr flags len) = true := by
  unfold validateNext; split
  · split <;> rfl
  · rfl

theorem xferRuns_afterMessage (s : State) (b : BusId) (m : Msg) : xferRuns (afterMessage s b m) = true := by
  unfold afterMessage; dsimp only; split <;> rfl

theorem xferRuns_afterWait (s : State) (b : BusId) (m : Msg) (w : WaitPt) : xferRuns (afterWait s b m w) = true := by
  cases w with
  | btf => exact xferRuns_afterMessage s b m
  | pendStart | sb | addr | rxne k => unfold afterWait; dsimp only; split <;> rfl
  | _ => rfl

theorem xferRuns_firstData (s : State) (b : BusId) (m : Msg) : xferRuns (firstData s b m) = true := by
  unfold firstData; split
  · exact xferRuns_afterMessage s b m
  · split <;> rfl

theorem xferRuns_afterRx (s : State) (b : BusId) (m : Msg) (k : Nat) : xferRuns (afterRx s b m k) = true := by
  unfold afterRx; split
  · rfl
  · exact xferRuns_afterMessage s b m

theorem xferRuns_afterTx (m : Msg) (k : Nat) : xferRuns (afterTx m k) = true := by
  unfold afterTx; split <;> rfl

theorem Inside.xferEntryStep (hs : Inside (.i2cMasterXfer bus) (.i2c b) s s) (hx : xferRuns s.me.pos = true)
    (p : EntryPos) : Answers (.i2cMasterXfer bus) (.i2c b) s (xferEntryStep b p s) := by
  cases p with
  | checkAddr j => exact hs.memAccess rfl (hs.gotoXfer hx rfl)
  | checkFlags j addr => exact hs.memAccess rfl (hs.gotoXfer hx rfl)
  | checkLen j addr flags => exact hs.memAccess rfl (hs.gotoXfer hx (xferRuns_validateNext ..))
  | bad => exact hs.halt rfl _
  | msgs => exact (hs.setCursor _).gotoXfer hx rfl
  | count => exact (hs.setCursor _).gotoXfer hx rfl
  | timeout => exact (hs.setCursor _).gotoXfer hx rfl
  | errorFlags => exact (hs.setDev { (s.i2cAt b).dev with errorFlags := 0 } rfl).gotoXfer hx rfl
  | clearSr1 => exact (hs.setI2c ((s.i2cAt b).writeSr1 sr1EntryWrite) rfl rfl).gotoXfer hx rfl
  | now => exact hs.gotoXfer hx rfl
  | t0 w => exact (hs.setCursor _).gotoXfer hx rfl

theorem Inside.xferLoadStep (hs : Inside (.i2cMasterXfer bus) (.i2c b) s s) (hx : xferRuns s.me.pos = true)
    (p : LoadPos) : Answers (.i2cMasterXfer bus) (.i2c b) s (xferLoadStep b p s) := by
  cases p with
  | index j => exact (hs.setCursor _).gotoXfer hx rfl
  | addr => exact hs.memAccess rfl (hs.gotoXfer hx rfl)
  | flags addr => exact hs.memAccess rfl (hs.gotoXfer hx rfl)
  | len addr flags => exact hs.memAccess rfl (hs.gotoXfer hx rfl)
  | data addr flags len => exact hs.memAccess rfl (hs.gotoXfer hx (by split <;> rfl))
  | clear m => exact hs.memAccess rfl ((hs.works (.setMem ..)).gotoXfer hx rfl)

theorem Inside.waitStep (hs : Inside (.i2cMasterXfer bus) (.i2c b) s s) (hx : xferRuns s.me.pos = true)
    (w : WaitPt) (t : WaitStage) : Answers (.i2cMasterXfer bus) (.i2c b) s (waitStep b m w t s) := by
  cases t with
  | sr1 =>
    have hv := hs.setI2c (s.i2cAt b).readSr1.2 rfl rfl
    unfold Machine.waitStep
    dsimp only
    split
    · exact hv.gotoXfer hx rfl
    · split
      · exact hv.gotoXfer hx rfl
      · refine hv.gotoXfer hx ?_
        split
        · exact xferRuns_afterWait ..
        · rfl
  | cr1 =>
    refine hs.gotoXfer hx ?_
    split
    · exact xferRuns_afterWait ..
    · rfl
  | now => exact hs.gotoXfer hx (by split <;> rfl)

/-- Inside a message, and at the exits up to the request of the stop. -/
theorem Inside.xferStep (hs : Inside (.i2cMasterXfer bus) (.i2c b) s s) (hx : xferRuns s.me.pos = true)
    {p : XferPos} (hp : s.me.pos = .xfer m p) : Answers (.i2cMasterXfer bus) (.i2c b) s (xferStep b m p s) := by
  cases p with
  | wait w t => exact hs.waitStep hx w t
  | ack | start | restart | ackOff | stop | exitStop => exact (hs.modifyI2cCr1 _).gotoXfer hx rfl
  | addr7 | header | low | headerR | txData => exact (hs.writeI2cDr _).gotoXfer hx rfl
  | clearMid => exact hs.readI2cSr2.gotoXfer hx rfl
  | clearAddr => exact hs.readI2cSr2.gotoXfer hx (xferRuns_firstData ..)
  | rxData k => exact (hs.setI2c (s.i2cAt b).readDr.2 rfl rfl).gotoXfer hx rfl
  | rxStore k w => exact hs.memAccess rfl ((hs.works (.setMem ..)).gotoXfer hx rfl)
  | rxCount k => exact hs.memAccess rfl ((hs.works (.setMem ..)).gotoXfer hx (xferRuns_afterRx ..))
  | txFetch k => exact hs.memAccess rfl (hs.gotoXfer hx rfl)
  | txCount k => exact hs.memAccess rfl ((hs.works (.setMem ..)).gotoXfer hx (xferRuns_afterTx ..))
  | faultFlags w =>
    exact (hs.setDev { (s.i2cAt b).dev with errorFlags := (w &&& errMask).setWidth 16 } rfl).gotoXfer hx rfl
  | exitState e =>
    refine (hs.setDevState e.devState).goto rfl rfl ?_ nofun
    rw [hp, State.devAt_setDevState]
    exact .exit bus m _ e rfl
  | exitFlight | exitResult => rw [hp] at hx; cases hx

end Xfer

/-! ## Every command -/

section Commands

variable {s : State} {b : BusId}

/-- Inside a transfer the next micro-step; past the release, RES and the return. -/
theorem Answers.xferStep {bus : BitVec 4} (hl : s.cur < s.ctxs.length) {m : Msg} {p : XferPos}
    (hp : s.me.pos = .xfer m p) : Answers (.i2cMasterXfer bus) (.i2c b) s (xferStep b m p s) := by
  have hrun (hh : xferRuns (.xfer m p) = true) :
      Answers (.i2cMasterXfer bus) (.i2c b) s (Machine.xferStep b m p s) := by
    have hx : xferRuns s.me.pos = true := by rw [hp, hh]
    exact (Inside.refl hl (holdsAt_of_xferRuns (posFits_of_xferRuns bus hx) hx)).xferStep hx hp
  cases p with
  | exitFlight e =>
    have hs : Inside (.i2cMasterXfer bus) (.i2c b) s s := .refl hl (hp ▸ rfl)
    exact .next (hs.release (s.setI2c b { s.i2cAt b with inflight := none })
      { s.me with pos := .xfer m (.exitResult e) } rfl rfl (by simp [State.devAt]) (fun _ => SameInst.setI2c s b _)
      (by simp [State.ownerOf]) rfl (.inr rfl) (hp ▸ rfl) rfl ⟨rfl, rfl⟩)
  | exitResult e =>
    refine .next ?_
    rw [State.setRes_goto hl]
    exact .outside hl (hp ▸ rfl) rfl (.inr rfl) (hp ▸ rfl) rfl nofun
  | _ => exact hrun rfl

/-- The guard of I2C.MASTER_XFER: rejected outside, or the claim with the device Busy (R154). -/
theorem Answers.xferGuard {bus : BitVec 4} (hl : s.cur < s.ctxs.length) (hp : s.me.pos = .start) :
    Answers (.i2cMasterXfer bus) (.i2c b) s (xferGuard b s) := by
  unfold Machine.xferGuard
  split
  · rename_i hopen
    refine .acquireI2c hl hp fun u hu _ => (hu.setDevState .busy).goto ?_ ?_ ?_ fun h => ?_
    · split <;> rfl
    · split <;> rfl
    · rw [hp, State.devAt_setDevState]
      exact .guard bus _ _ rfl hopen (by split <;> rfl)
    · split at h <;> cases h
  · have hret : (s.setRes i2cErrorBusy).returned =
        s.setMe { s.me with res := i2cErrorBusy, resWritten := true, pos := .ready, cc := s.me.cc + 1 } := by
      rw [State.returned, State.me_setRes hl, State.setRes, State.setMe_setMe]
    rw [hret]
    exact .next (.outside hl (hp ▸ rfl) rfl (.inl rfl) (hp ▸ rfl) rfl nofun)

/-- A calculator holds nothing: its value, its error, or the return. -/
theorem Answers.calcResult {i : Instr} {inst : InstId} (hl : s.cur < s.ctxs.length) (hp : s.me.pos = .start)
    (hh : ∀ p, holdsAt i p = false) (hw : i.writesRes = true) (r : Except ErrorKind Word) :
    Answers i inst s (calcResult r s) := by
  cases r with
  | error e => exact .next (.halted hl e)
  | ok v =>
    refine .next ?_
    rw [State.setRes_goto hl]
    exact .outside hl (hh _) (hh _) (.inr rfl) (hp ▸ rfl) rfl fun h => nomatch hw.symm.trans h

/-- The return of a command that holds nothing any more. -/
theorem Answers.returned {i : Instr} {inst : InstId} (hl : s.cur < s.ctxs.length) (hp : s.me.pos = .ret)
    (hh : holdsAt i .ret = false) (hready : holdsAt i .ready = false) : Answers i inst s (.next s.returned) :=
  .next (.outside hl (by rw [hp, hh]) hready (.inl rfl) (hp ▸ rfl) rfl fun _ => ⟨rfl, rfl⟩)

/-- A command whose BUS field names no bus of its family halts (R92 step 3). -/
theorem exec_of_instOf_none {i : Instr} (h : instOf s.plat i = none) : exec i s = .next (s.halted .invalidBus) := by
  cases hs : i.isSpi with
  | true =>
    have hb : spiBusOf s.plat i.bus = none := by simpa [instOf, hs] using h
    cases i with
    | spiBegin | spiBeginSlave | spiEnd | spiRead | spiWrite | spiTransfer | spiBaudCalc =>
      simp only [Instr.bus] at hb
      simp only [exec, execSpiBegin, execSpiBeginSlave, execSpiEnd, execSpiRead, execSpiWrite, execSpiTransfer,
        execSpiBaudCalc, hb, raise_eq]
    | _ => cases hs
  | false =>
    have hb : i2cBusOf s.plat i.bus = none := by simpa [instOf, hs] using h
    cases i with
    | i2cInit | i2cMasterEnable | i2cMasterXfer | i2cBusReset | i2cTimingCalc =>
      simp only [Instr.bus] at hb
      simp only [exec, execI2cInit, execI2cMasterEnable, execI2cMasterXfer, execI2cBusReset, execI2cTimingCalc, hb,
        raise_eq]
    | _ => cases hs

theorem spiBusOf_of_instOf {p : Platform} {i : Instr} {inst : InstId} (hs : i.isSpi = true) (h : instOf p i = some inst) :
    ∃ b, inst = .spi b ∧ spiBusOf p i.bus = some b := by
  simp only [instOf, hs, if_true, Option.map_eq_some_iff] at h
  obtain ⟨b, hb, rfl⟩ := h
  exact ⟨b, rfl, hb⟩

theorem i2cBusOf_of_instOf {p : Platform} {i : Instr} {inst : InstId} (hs : i.isSpi = false)
    (h : instOf p i = some inst) : ∃ b, inst = .i2c b ∧ i2cBusOf p i.bus = some b := by
  simp only [instOf, hs, Bool.false_eq_true, if_false, Option.map_eq_some_iff] at h
  obtain ⟨b, hb, rfl⟩ := h
  exact ⟨b, rfl, hb⟩

theorem execSpiBegin_answers {bus : BitVec 4} {tier : BitVec 8} {ord : BitVec 1} {mode : BitVec 4}
    (hl : s.cur < s.ctxs.length) (hb : spiBusOf s.plat bus = some b) :
    Answers (.spiBegin bus tier ord mode) (.spi b) s (execSpiBegin bus tier ord mode s) := by
  unfold execSpiBegin
  rw [hb]
  cases hp : s.me.pos with
  | start =>
    refine .acquireSpi hl hp fun u hu => ?_
    split
    · exact hu.halt rfl _
    · exact hu.spiReconfigure (hp ▸ rfl) (fun _ => rfl) fun _ => rfl
  | cfg p =>
    have hs : Inside (.spiBegin bus tier ord mode) (.spi b) s s := .refl hl (hp ▸ rfl)
    dsimp only
    split
    · exact hs.halt rfl _
    · exact hs.spiReconfigureStep (hp ▸ rfl) (fun _ => rfl) (fun _ => rfl) rfl ..
  | ret => exact (Inside.refl hl (hp ▸ rfl)).finishSpi (hp ▸ rfl) rfl
  | _ => exact .lost (hp ▸ rfl)

theorem execSpiBeginSlave_answers {bus : BitVec 4} {ord : BitVec 1} {mode : BitVec 4}
    (hl : s.cur < s.ctxs.length) (hb : spiBusOf s.plat bus = some b) :
    Answers (.spiBeginSlave bus ord mode) (.spi b) s (execSpiBeginSlave bus ord mode s) := by
  unfold execSpiBeginSlave
  rw [hb]
  cases hp : s.me.pos with
  | start =>
    refine .acquireSpi hl hp fun u hu => ?_
    split
    · exact hu.halt rfl _
    · exact hu.spiReconfigure (hp ▸ rfl) (fun _ => rfl) fun _ => rfl
  | cfg p =>
    exact (Inside.refl hl (hp ▸ rfl)).spiReconfigureStep (hp ▸ rfl) (fun _ => rfl) (fun _ => rfl) rfl ..
  | ret => exact (Inside.refl hl (hp ▸ rfl)).finishSpi (hp ▸ rfl) rfl
  | _ => exact .lost (hp ▸ rfl)

theorem execSpiEnd_answers {bus : BitVec 4} (hl : s.cur < s.ctxs.length) (hb : spiBusOf s.plat bus = some b) :
    Answers (.spiEnd bus) (.spi b) s (execSpiEnd bus s) := by
  unfold execSpiEnd
  rw [hb]
  cases hp : s.me.pos with
  | start =>
    refine .acquireSpi hl hp fun u hu => ?_
    split <;> exact hu.gotoSpi (hp ▸ rfl) rfl rfl rfl
  | ending p => exact (Inside.refl hl (hp ▸ rfl)).spiEndStep (hp ▸ rfl) p
  | ret => exact (Inside.refl hl (hp ▸ rfl)).finishSpi (hp ▸ rfl) rfl
  | _ => exact .lost (hp ▸ rfl)

theorem execSpiRead_answers {bus : BitVec 4} (hl : s.cur < s.ctxs.length) (hb : spiBusOf s.plat bus = some b) :
    Answers (.spiRead bus) (.spi b) s (execSpiRead bus s) := by
  unfold execSpiRead
  rw [hb]
  cases hp : s.me.pos with
  | start =>
    refine .acquireSpi hl hp fun u hu => ?_
    split
    · exact hu.finishSpi (hp ▸ rfl) rfl
    · exact hu.spiReadStep (hp ▸ rfl) ..
  | reading p => exact (Inside.refl hl (hp ▸ rfl)).spiReadStep (hp ▸ rfl) ..
  | ret => exact (Inside.refl hl (hp ▸ rfl)).finishSpi (hp ▸ rfl) rfl
  | _ => exact .lost (hp ▸ rfl)

theorem execSpiWrite_answers {bus : BitVec 4} (hl : s.cur < s.ctxs.length) (hb : spiBusOf s.plat bus = some b) :
    Answers (.spiWrite bus) (.spi b) s (execSpiWrite bus s) := by
  unfold execSpiWrite
  rw [hb]
  cases hp : s.me.pos with
  | start =>
    refine .acquireSpi hl hp fun u hu => ?_
    split
    · exact hu.finishSpi (hp ▸ rfl) rfl
    · exact hu.spiWriteStep (hp ▸ rfl) ..
  | writing p => exact (Inside.refl hl (hp ▸ rfl)).spiWriteStep (hp ▸ rfl) ..
  | ret => exact (Inside.refl hl (hp ▸ rfl)).finishSpi (hp ▸ rfl) rfl
  | _ => exact .lost (hp ▸ rfl)

theorem execSpiTransfer_answers {bus : BitVec 4} {byte : BitVec 8} (hl : s.cur < s.ctxs.length)
    (hb : spiBusOf s.plat bus = some b) :
    Answers (.spiTransfer bus byte) (.spi b) s (execSpiTransfer bus byte s) := by
  unfold execSpiTransfer
  rw [hb]
  cases hp : s.me.pos with
  | start => exact .acquireSpi hl hp fun u hu => hu.spiTransferStep (hp ▸ rfl) _
  | transfer p => exact (Inside.refl hl (hp ▸ rfl)).spiTransferStep (hp ▸ rfl) _
  | ret => exact (Inside.refl hl (hp ▸ rfl)).finishSpi (hp ▸ rfl) rfl
  | _ => exact .lost (hp ▸ rfl)

theorem execSpiBaudCalc_answers {bus : BitVec 4} {tier : BitVec 8} (hl : s.cur < s.ctxs.length)
    (hb : spiBusOf s.plat bus = some b) :
    Answers (.spiBaudCalc bus tier) (.spi b) s (execSpiBaudCalc bus tier s) := by
  unfold execSpiBaudCalc
  rw [hb]
  cases hp : s.me.pos with
  | start => exact .calcResult hl hp (fun _ => rfl) rfl _
  | ret => exact .returned hl hp rfl rfl
  | _ => exact .lost (hp ▸ rfl)

theorem execI2cTimingCalc_answers {bus flags : BitVec 4} (hl : s.cur < s.ctxs.length)
    (hb : i2cBusOf s.plat bus = some b) :
    Answers (.i2cTimingCalc bus flags) (.i2c b) s (execI2cTimingCalc bus flags s) := by
  unfold execI2cTimingCalc
  rw [hb]
  cases hp : s.me.pos with
  | start => exact .calcResult hl hp (fun _ => rfl) rfl _
  | ret => exact .returned hl hp rfl rfl
  | _ => exact .lost (hp ▸ rfl)

theorem execI2cInit_answers {bus : BitVec 4} (hl : s.cur < s.ctxs.length) (hb : i2cBusOf s.plat bus = some b) :
    Answers (.i2cInit bus) (.i2c b) s (execI2cInit bus s) := by
  unfold execI2cInit
  rw [hb]
  cases hp : s.me.pos with
  | start =>
    refine .acquireI2c hl hp fun u hu _ => (hu.setDevState .disabled).goto rfl rfl ?_ nofun
    rw [hp, State.devAt_setDevState]
    exact .init bus _ rfl
  | init p => exact (Inside.refl hl (hp ▸ rfl)).i2cInitStep (hp ▸ rfl) p
  | ret => exact (Inside.refl hl (hp ▸ rfl)).finishI2c (hp ▸ rfl) rfl
  | _ => exact .lost (hp ▸ rfl)

theorem resetsBus_i2cBusReset (bus : BitVec 4) : ResetsBus (.i2cBusReset bus) .ret :=
  ⟨fun _ => rfl, fun _ => rfl, rfl, rfl, rfl, rfl⟩

theorem resetsBus_i2cMasterEnable (bus flags : BitVec 4) : ResetsBus (.i2cMasterEnable bus flags) (.enabling .pins) :=
  ⟨fun _ => rfl, fun _ => rfl, rfl, rfl, rfl, rfl⟩

theorem execI2cBusReset_answers {bus : BitVec 4} (hl : s.cur < s.ctxs.length) (hb : i2cBusOf s.plat bus = some b) :
    Answers (.i2cBusReset bus) (.i2c b) s (execI2cBusReset bus s) := by
  unfold execI2cBusReset
  rw [hb]
  cases hp : s.me.pos with
  | start => exact .acquireI2c hl hp fun u hu _ => hu.busResetStep (hp ▸ rfl) (resetsBus_i2cBusReset bus) _
  | busReset p => exact (Inside.refl hl (hp ▸ rfl)).busResetStep (hp ▸ rfl) (resetsBus_i2cBusReset bus) p
  | ret => exact (Inside.refl hl (hp ▸ rfl)).finishI2c (hp ▸ rfl) rfl
  | _ => exact .lost (hp ▸ rfl)

theorem execI2cMasterEnable_answers {bus flags : BitVec 4} (hl : s.cur < s.ctxs.length)
    (hb : i2cBusOf s.plat bus = some b) :
    Answers (.i2cMasterEnable bus flags) (.i2c b) s (execI2cMasterEnable bus flags s) := by
  unfold execI2cMasterEnable
  rw [hb]
  cases hp : s.me.pos with
  | start =>
    have hx : xferRuns s.me.pos = false := by rw [hp]; rfl
    refine .acquireI2c hl hp fun u hu hpe => ?_
    dsimp only
    split
    · exact hu.halt hpe _
    · obtain ⟨ho, hd⟩ := (u.i2cAt b).writeCr1_keeps (clearBit (u.i2cAt b).cr1 i2cPE)
      have hv := hu.setI2c _ ho (by rw [hd])
      refine hv.goto rfl rfl (hv.keep hx.symm) fun _ => ?_
      simpa [State.peAt] using (u.i2cAt b).pe_writeCr1_clear
  | enabling p =>
    have hs : Inside (.i2cMasterEnable bus flags) (.i2c b) s s := .refl hl (hp ▸ rfl)
    dsimp only
    split
    · exact hs.halt rfl _
    · exact hs.i2cEnableStep hp _
  | busReset p =>
    exact (Inside.refl hl (hp ▸ rfl)).busResetStep (hp ▸ rfl) (resetsBus_i2cMasterEnable bus flags) p
  | ret => exact (Inside.refl hl (hp ▸ rfl)).finishI2c (hp ▸ rfl) rfl
  | _ => exact .lost (hp ▸ rfl)

theorem execI2cMasterXfer_answers {bus : BitVec 4} (hl : s.cur < s.ctxs.length) (hb : i2cBusOf s.plat bus = some b) :
    Answers (.i2cMasterXfer bus) (.i2c b) s (execI2cMasterXfer bus s) := by
  unfold execI2cMasterXfer
  rw [hb]
  cases hp : s.me.pos with
  | start => exact .xferGuard hl hp
  | xferEntry p => exact (Inside.refl hl (hp ▸ rfl)).xferEntryStep (hp ▸ rfl) p
  | xferLoad p => exact (Inside.refl hl (hp ▸ rfl)).xferLoadStep (hp ▸ rfl) p
  | xfer m p => exact .xferStep hl hp
  | ret => exact .returned hl hp rfl rfl
  | _ => exact .lost (hp ▸ rfl)

/-- What one micro-step of any command can answer. -/
theorem exec_answers {i : Instr} {inst : InstId} (hl : s.cur < s.ctxs.length) (h : instOf s.plat i = some inst) :
    Answers i inst s (exec i s) := by
  cases hs : i.isSpi with
  | true =>
    obtain ⟨b, rfl, hb⟩ := spiBusOf_of_instOf hs h
    cases i with
    | spiBegin => exact execSpiBegin_answers hl hb
    | spiBeginSlave => exact execSpiBeginSlave_answers hl hb
    | spiEnd => exact execSpiEnd_answers hl hb
    | spiRead => exact execSpiRead_answers hl hb
    | spiWrite => exact execSpiWrite_answers hl hb
    | spiTransfer => exact execSpiTransfer_answers hl hb
    | spiBaudCalc => exact execSpiBaudCalc_answers hl hb
    | _ => cases hs
  | false =>
    obtain ⟨b, rfl, hb⟩ := i2cBusOf_of_instOf hs h
    cases i with
    | i2cInit => exact execI2cInit_answers hl hb
    | i2cMasterEnable => exact execI2cMasterEnable_answers hl hb
    | i2cMasterXfer => exact execI2cMasterXfer_answers hl hb
    | i2cBusReset => exact execI2cBusReset_answers hl hb
    | i2cTimingCalc => exact execI2cTimingCalc_answers hl hb
    | _ => cases hs

/-- Every next state of a command's micro-step: the halt InvalidBus, or what `Micro` says of the bus named. -/
theorem exec_next {i : Instr} {t : State} (hl : s.cur < s.ctxs.length) (h : exec i s = .next t) :
    (instOf s.plat i = none ∧ t = s.halted .invalidBus) ∨ ∃ inst, instOf s.plat i = some inst ∧ Micro i inst s t := by
  cases hi : instOf s.plat i with
  | none =>
    rw [exec_of_instOf_none hi] at h
    exact .inl ⟨rfl, (Host.Outcome.next.inj h).symm⟩
  | some inst =>
    have ha := exec_answers hl hi
    rw [h] at ha
    cases ha with
    | next hm => exact .inr ⟨inst, rfl, hm⟩

end Commands

/-! ## What one step does to control -/

/-- What control does not see: the steps of the peripherals and of time, a halt, and what a caller does between commands but
for an issue. -/
structure SameControl (s t : State) : Prop where
  length : t.ctxs.length = s.ctxs.length
  plat   : t.plat = s.plat
  issued : ∀ c, (t.ctxAt c).issued = (s.ctxAt c).issued
  pos    : ∀ c, (t.ctxAt c).pos = (s.ctxAt c).pos
  owner  : ∀ e, t.ownerOf e = s.ownerOf e
  dev    : ∀ e, t.devAt e = s.devAt e
  pe     : ∀ e, t.peAt e = s.peAt e

/-- A property of the running context that a replacement keeps, every context keeps. -/
theorem State.ctxAt_setMe_keeps {α : Type} (f : Ctx → α) {s : State} {m : Ctx} (h : f m = f s.me) (c : Nat) :
    f ((s.setMe m).ctxAt c) = f (s.ctxAt c) := by
  by_cases hc : c = s.cur
  · subst hc
    rcases Nat.lt_or_ge s.cur s.ctxs.length with hl | hl
    · exact (congrArg f (State.me_setMe hl m)).trans h
    · simp [State.setMe, State.setCtx, List.set_eq_of_length_le hl]
  · rw [State.ctxAt_setMe_other s m hc]

theorem SameControl.refl (s : State) : SameControl s s := ⟨rfl, rfl, fun _ => rfl, fun _ => rfl, fun _ => rfl,
  fun _ => rfl, fun _ => rfl⟩

theorem SameControl.setMe {s : State} {m : Ctx} (hi : m.issued = s.me.issued) (hp : m.pos = s.me.pos) :
    SameControl s (s.setMe m) where
  length := State.setMe_length ..
  plat := rfl
  issued := State.ctxAt_setMe_keeps Ctx.issued hi
  pos := State.ctxAt_setMe_keeps Ctx.pos hp
  owner e := (SameInst.setMe s m e).ownerOf
  dev e := (SameInst.setMe s m e).devAt
  pe e := (SameInst.setMe s m e).peAt

/-- Control sees the contexts, the buses and the platform, nothing else. -/
theorem SameControl.of_eq {s t : State} (hc : t.ctxs = s.ctxs) (hspi : t.spi = s.spi) (hi2c : t.i2c = s.i2c)
    (hp : t.plat = s.plat) : SameControl s t where
  length := by rw [hc]
  plat := hp
  issued c := by rw [State.ctxAt, State.ctxAt, hc]
  pos c := by rw [State.ctxAt, State.ctxAt, hc]
  owner e := by cases e <;> simp [State.ownerOf, State.spiAt, State.i2cAt, hspi, hi2c]
  dev e := by cases e <;> simp [State.devAt, State.i2cAt, hi2c]
  pe e := by cases e <;> simp [State.peAt, State.i2cAt, hi2c]

theorem SameControl.emitAll (s : State) (es : List BusEvent) : SameControl s (s.emitAll es) := .of_eq rfl rfl rfl rfl

theorem SameControl.advance (s : State) : SameControl s s.advance := .of_eq rfl rfl rfl rfl

theorem SameControl.trans {s t u : State} (h : SameControl s t) (g : SameControl t u) : SameControl s u where
  length := g.length.trans h.length
  plat := g.plat.trans h.plat
  issued c := (g.issued c).trans (h.issued c)
  pos c := (g.pos c).trans (h.pos c)
  owner e := (g.owner e).trans (h.owner e)
  dev e := (g.dev e).trans (h.dev e)
  pe e := (g.pe e).trans (h.pe e)

theorem SameControl.setSpi {s : State} {b : BusId} {x : SpiBus} (h : x.inflight = (s.spiAt b).inflight) :
    SameControl s (s.setSpi b x) where
  length := rfl
  plat := rfl
  issued _ := rfl
  pos _ := rfl
  owner e := by
    by_cases he : e = .spi b
    · subst he; simpa [State.ownerOf] using h
    · exact (SameInst.setSpi s b x he).ownerOf
  dev e := by cases e <;> rfl
  pe e := by cases e <;> rfl

theorem SameControl.setI2c {s : State} {b : BusId} {x : I2cBus} (h : x.inflight = (s.i2cAt b).inflight)
    (hd : x.dev.state = (s.i2cAt b).dev.state) (hpe : x.pe = (s.i2cAt b).pe) : SameControl s (s.setI2c b x) where
  length := rfl
  plat := rfl
  issued _ := rfl
  pos _ := rfl
  owner e := by
    by_cases he : e = .i2c b
    · subst he; simpa [State.ownerOf] using h
    · exact (SameInst.setI2c s b x he).ownerOf
  dev e := by
    by_cases he : e = .i2c b
    · subst he; simpa [State.devAt] using hd
    · exact (SameInst.setI2c s b x he).devAt
  pe e := by
    by_cases he : e = .i2c b
    · subst he; simpa [State.peAt] using hpe
    · exact (SameInst.setI2c s b x he).peAt

theorem SpiBus.receive_inflight (x : SpiBus) (rx : Byte) : (x.receive rx).inflight = x.inflight := by
  unfold SpiBus.receive; split <;> rfl

theorem SpiBus.afterFrame_inflight (x : SpiBus) : x.afterFrame.inflight = x.inflight := by
  unfold SpiBus.afterFrame; split <;> rfl

theorem I2cBus.sendAddress_keeps (x : I2cBus) (ack : Bool) :
    (x.sendAddress ack).inflight = x.inflight ∧ (x.sendAddress ack).dev = x.dev ∧ (x.sendAddress ack).cr1 = x.cr1 := by
  unfold I2cBus.sendAddress
  dsimp only
  split <;> split <;> exact ⟨rfl, rfl, rfl⟩

theorem I2cBus.sendAddress2_keeps (x : I2cBus) (ack : Bool) :
    (x.sendAddress2 ack).inflight = x.inflight ∧ (x.sendAddress2 ack).dev = x.dev ∧
      (x.sendAddress2 ack).cr1 = x.cr1 := by
  unfold I2cBus.sendAddress2
  dsimp only
  split <;> exact ⟨rfl, rfl, rfl⟩

theorem I2cBus.sendData_keeps (x : I2cBus) (ack : Bool) :
    (x.sendData ack).inflight = x.inflight ∧ (x.sendData ack).dev = x.dev ∧ (x.sendData ack).cr1 = x.cr1 := by
  unfold I2cBus.sendData
  dsimp only
  split <;> exact ⟨rfl, rfl, rfl⟩

/-- No step of the peripheral changes the owner, the engine's state or PE (R193 to R200). -/
theorem I2cBus.stepEffect_keeps (x : I2cBus) (k : I2cStep) (byte : Byte) (bit : Bool) :
    (x.stepEffect k byte bit).inflight = x.inflight ∧ (x.stepEffect k byte bit).dev = x.dev ∧
      (x.stepEffect k byte bit).pe = x.pe := by
  cases k with
  | generate => exact ⟨rfl, rfl, x.generateStart_pe⟩
  | stop => exact ⟨rfl, rfl, x.generateStop_pe⟩
  | address =>
    obtain ⟨ho, hd, hcr1⟩ := x.sendAddress_keeps bit
    exact ⟨ho, hd, congrArg (testBit · i2cPE) hcr1⟩
  | address2 =>
    obtain ⟨ho, hd, hcr1⟩ := x.sendAddress2_keeps bit
    exact ⟨ho, hd, congrArg (testBit · i2cPE) hcr1⟩
  | transmit =>
    obtain ⟨ho, hd, hcr1⟩ := x.sendData_keeps bit
    exact ⟨ho, hd, congrArg (testBit · i2cPE) hcr1⟩
  | accept | receive | busError | arbitrationLoss | overrun => exact ⟨rfl, rfl, rfl⟩

/-- Whatever an agent does that is no micro-step of a command and no issue, control does not see. -/
theorem AgentEffect.control {s t : State} (h : AgentEffect s t) :
    SameControl s t ∨
    (∃ p rest, s.cur < s.ctxs.length ∧ s.me.pos = .ready ∧ t = s.setMe { s.me.present p with program := rest }) ∨
    (∃ i, s.cur < s.ctxs.length ∧ s.me.pos ≠ .ready ∧ decode s.me.issued.cmd = .ok i ∧ exec i s = .next t) := by
  cases h with
  | idle => exact .inl (.refl s)
  | command i t hl _ hp hi h => exact .inr (.inr ⟨i, hl, hp, hi, h⟩)
  | illegal => exact .inl (.setMe rfl rfl)
  | issue p rest hl _ hp => exact .inr (.inl ⟨p, rest, hl, hp, rfl⟩)
  | readRes => exact .inl (.setMe rfl rfl)
  | store a v =>
    exact .inl ((SameControl.of_eq (s := s) (t := s.setMem (s.mem.write a.toNat v)) rfl rfl rfl rfl).trans
      (.setMe rfl rfl))
  | port => exact .inl (.setMe rfl rfl)
  | spiStart => exact .inl (.setSpi rfl)
  | spiComplete =>
    exact .inl ((SameControl.setSpi ((SpiBus.afterFrame_inflight _).trans (SpiBus.receive_inflight ..))).trans
      (.emitAll ..))
  | i2c b k v a =>
    obtain ⟨ho, hd, hpe⟩ := (s.i2cAt b).stepEffect_keeps k v a
    exact .inl ((SameControl.setI2c ho (by rw [hd]) hpe).trans (.emitAll ..))
  | time => exact .inl (.of_eq rfl rfl rfl rfl)

/-! ## The control invariants by name -/

/-- `State.ctxOk` for the bus a context holds. -/
theorem State.ctxOk_iff {s : State} {c : Nat} : s.ctxOk c ↔ (s.ctxAt c).posOk = true ∧
    ∀ i inst, decode (s.ctxAt c).issued.cmd = .ok i → heldAt s.plat i (s.ctxAt c).pos = some inst →
      s.ownerOf inst = some c ∧ (programsTiming (s.ctxAt c).pos = true → s.peAt inst = false) ∧
      (xferRuns (s.ctxAt c).pos = true → ∀ b, inst = .i2c b → s.devAt inst = .busy) := by
  constructor
  · intro h
    refine ⟨h.pos, fun i inst hi hheld => ⟨h.held i inst hi hheld, fun ht => ?_, fun hx b hb => ?_⟩⟩
    · cases inst with
      | spi b => rfl
      | i2c b => exact h.timing i b hi ht hheld
    · subst hb; exact h.busy i b hi hx hheld
  · intro ⟨hpos, h⟩
    exact {
      pos := hpos
      held := fun i inst hi hheld => (h i inst hi hheld).1
      timing := fun i b hi ht hheld => (h i (.i2c b) hi hheld).2.1 ht
      busy := fun i b hi hx hheld => (h i (.i2c b) hi hheld).2.2 hx b rfl }

theorem Ctx.posOk_iff {x : Ctx} {i : Instr} (hi : decode x.issued.cmd = .ok i) :
    x.posOk = true ↔ x.pos = .ready ∨ posFits i x.pos = true := by
  simp [Ctx.posOk, hi]

theorem Ctx.posOk_congr {x y : Ctx} (hi : y.issued = x.issued) (hp : y.pos = x.pos) : y.posOk = x.posOk := by
  rw [Ctx.posOk, hi, hp, Ctx.posOk]

/-- A context in order stays so where neither it nor the bus it holds changes as control sees them. -/
theorem State.ctxOk_congr {s t : State} {c : Nat} (h : s.ctxOk c) (hplat : t.plat = s.plat)
    (hi : (t.ctxAt c).issued = (s.ctxAt c).issued) (hp : (t.ctxAt c).pos = (s.ctxAt c).pos)
    (hinst : ∀ i inst, decode (s.ctxAt c).issued.cmd = .ok i → heldAt s.plat i (s.ctxAt c).pos = some inst →
      t.ownerOf inst = s.ownerOf inst ∧ t.devAt inst = s.devAt inst ∧ t.peAt inst = s.peAt inst) : t.ctxOk c := by
  rw [State.ctxOk_iff] at *
  obtain ⟨hpos, hheld⟩ := h
  rw [Ctx.posOk_congr hi hp, hplat, hi, hp]
  refine ⟨hpos, fun i inst hd hh => ?_⟩
  obtain ⟨ho, hdev, hpe⟩ := hinst i inst hd hh
  rw [ho, hdev, hpe]
  exact hheld i inst hd hh

theorem SameControl.controlOk {s t : State} (h : SameControl s t) (hs : s.controlOk) : t.controlOk := fun c hc =>
  State.ctxOk_congr (hs c (h.length ▸ hc)) h.plat (h.issued c) (h.pos c) fun _ e _ _ => ⟨h.owner e, h.dev e, h.pe e⟩

/-- `State.busyOk` by `devAt` and `ownerOf`. -/
theorem State.busyOk_iff {s : State} : s.busyOk ↔ ∀ b, s.devAt (.i2c b) = .busy → ∃ c i, c < s.ctxs.length ∧
    s.ownerOf (.i2c b) = some c ∧ decode (s.ctxAt c).issued.cmd = .ok i ∧ xferRuns (s.ctxAt c).pos = true ∧
    heldAt s.plat i (s.ctxAt c).pos = some (.i2c b) := Iff.rfl

theorem SameControl.busyOk {s t : State} (h : SameControl s t) (hs : s.busyOk) : t.busyOk := by
  rw [State.busyOk_iff] at *
  intro b hb
  rw [h.dev] at hb
  obtain ⟨c, i, hc, ho, hi, hx, hh⟩ := hs b hb
  refine ⟨c, i, h.length ▸ hc, (h.owner _).trans ho, ?_, ?_, ?_⟩
  · rw [h.issued, hi]
  · rw [h.pos, hx]
  · rw [h.plat, h.pos, hh]

/-! ## Every step keeps the control invariants -/

/-- A position that holds the bus is reached with the bus owned. -/
theorem Move.owner {c : Nat} {i : Instr} {o o' : Option Nat} {p q : Pos} (h : Move c i o p o' q)
    (ho : holdsAt i p = true → o = some c) (hq : holdsAt i q = true) : o' = some c := by
  cases h with
  | stay => exact ho hq
  | claim | enter => rfl
  | work _ _ _ hp => exact ho hp
  | release _ _ _ _ hq' | outside _ _ _ _ hq' => rw [hq'] at hq; cases hq

/-- A command stays at its own positions until it returns. -/
theorem Move.fits {c : Nat} {i : Instr} {o o' : Option Nat} {p q : Pos} (h : Move c i o p o' q)
    (hp : posFits i p = true) : q = .ready ∨ posFits i q = true := by
  cases h with
  | stay => exact .inr hp
  | claim => exact .inr rfl
  | enter _ _ hf => exact .inr hf
  | work _ _ _ _ _ hf => exact .inr hf
  | release _ _ _ _ _ hf | outside _ _ _ _ _ hf => exact hf

/-- What another context owns is not entered. -/
theorem Move.not_holds {c : Nat} {i : Instr} {o o' : Option Nat} {p q : Pos} (h : Move c i o p o' q)
    (hp : holdsAt i p = false) (ho : o ≠ none) : holdsAt i q = false := by
  cases h with
  | stay => exact hp
  | claim => exact holdsAt_start i
  | enter => exact absurd rfl ho
  | work _ _ _ hp' | release _ _ _ hp' => rw [hp] at hp'; cases hp'
  | outside _ _ _ _ hq => exact hq

/-- While a transfer runs its device is Busy (R33). -/
theorem DevMove.busy_of_runs {i : Instr} {p q : Pos} {d d' : DevState} (h : DevMove i p d q d')
    (hd : xferRuns p = true → d = .busy) (hq : xferRuns q = true) : d' = .busy := by
  cases h with
  | keep _ _ _ hx => exact hd (hx ▸ hq)
  | guard => rfl
  | init | enable | exit => cases hq

/-- A device becomes Busy, or stays so, only with a transfer that runs (R33, R36). -/
theorem DevMove.runs_of_busy {i : Instr} {p q : Pos} {d d' : DevState} (h : DevMove i p d q d') (hb : d' = .busy) :
    xferRuns q = true ∨ (d = .busy ∧ xferRuns q = xferRuns p) := by
  cases h with
  | keep _ _ _ hx => exact .inr ⟨hb, hx⟩
  | guard _ _ _ _ _ hq => exact .inl hq
  | init | enable => cases hb
  | exit _ _ _ e => cases e <;> cases hb

section Command

variable {i : Instr} {inst : InstId} {s t : State}

/-- At a position that holds its bus the running context owns it. -/
theorem State.controlOk_owner (hs : s.controlOk) (hl : s.cur < s.ctxs.length) (hi : decode s.me.issued.cmd = .ok i)
    (hinst : instOf s.plat i = some inst) (hh : holdsAt i s.me.pos = true) : s.ownerOf inst = some s.cur :=
  (hs s.cur hl).held i inst hi (heldAt_eq_some.2 ⟨hh, hinst⟩)

/-- A bus that another context owns is left alone. -/
theorem Micro.same_of_owned (h : Micro i inst s t) (hown : holdsAt i s.me.pos = true → s.ownerOf inst = some s.cur)
    {e : InstId} {c : Nat} (hc : c ≠ s.cur) (he : s.ownerOf e = some c) : SameInst s t e := by
  by_cases heq : e = inst
  · subst heq
    rcases h.frame with hsame | hh | ⟨_, hn⟩
    · exact hsame
    · exact absurd (Option.some.inj (he.symm.trans (hown hh))) hc
    · exact nomatch he.symm.trans hn
  · exact h.others e heq

theorem ExecEffect.ctxAt_cur (he : ExecEffect s t) : t.ctxAt s.cur = t.me := by rw [State.me, he.cur_eq]

/-- A context that does not run stays in order. -/
theorem Micro.ctxOk_other (h : Micro i inst s t) (he : ExecEffect s t)
    (hown : holdsAt i s.me.pos = true → s.ownerOf inst = some s.cur) {c : Nat} (hc : c ≠ s.cur) (hok : s.ctxOk c) :
    t.ctxOk c := by
  refine State.ctxOk_congr hok he.plat ?_ ?_ fun j e hj hheld => ?_
  · rw [he.other c hc]
  · rw [he.other c hc]
  · have hsame := h.same_of_owned hown hc (hok.held j e hj hheld)
    exact ⟨hsame.ownerOf, hsame.devAt, hsame.peAt⟩

/-- The context that runs stays in order. -/
theorem Micro.ctxOk_cur (h : Micro i inst s t) (he : ExecEffect s t) (hi : decode s.me.issued.cmd = .ok i)
    (hinst : instOf s.plat i = some inst) (hp : s.me.pos ≠ .ready) (hok : s.ctxOk s.cur) : t.ctxOk s.cur := by
  obtain ⟨-, hissued, -, -⟩ := he.caller
  rw [State.ctxOk_iff, he.ctxAt_cur]
  obtain ⟨hpos, hheld⟩ := State.ctxOk_iff.1 hok
  have hmine (hh : holdsAt i s.me.pos = true) := hheld i inst hi (heldAt_eq_some.2 ⟨hh, hinst⟩)
  have hfits : posFits i s.me.pos = true := ((Ctx.posOk_iff hi).1 hpos).resolve_left hp
  have hti : decode t.me.issued.cmd = .ok i := by rw [hissued, hi]
  refine ⟨(Ctx.posOk_iff hti).2 (h.move.fits hfits), fun j e hj hte => ?_⟩
  obtain rfl : j = i := Except.ok.inj (hj.symm.trans hti)
  rw [he.plat] at hte
  obtain ⟨hq, hje⟩ := heldAt_eq_some.1 hte
  obtain rfl : e = inst := Option.some.inj (hje.symm.trans hinst)
  refine ⟨h.move.owner (fun hh => (hmine hh).1) hq, fun ht => ?_, fun hx b hb => ?_⟩
  · rcases h.timing ht with hpe | ⟨hsame, hpe⟩
    · exact hpe
    · rw [hsame] at hq ht
      rw [hpe]
      exact (hmine hq).2.1 ht
  · exact h.dev.busy_of_runs (fun hxs => (hmine (holdsAt_of_xferRuns hfits hxs)).2.2 hxs b hb) hx

/-- A micro-step of a command keeps the control invariant. -/
theorem Micro.controlOk (h : Micro i inst s t) (he : ExecEffect s t) (hs : s.controlOk) (hl : s.cur < s.ctxs.length)
    (hi : decode s.me.issued.cmd = .ok i) (hinst : instOf s.plat i = some inst) (hp : s.me.pos ≠ .ready) :
    t.controlOk := fun c hc => by
  rw [he.length] at hc
  by_cases hcur : c = s.cur
  · subst hcur; exact h.ctxOk_cur he hi hinst hp (hs _ hl)
  · exact h.ctxOk_other he (State.controlOk_owner hs hl hi hinst) hcur (hs c hc)

/-- A micro-step of a command keeps every Busy device owned by a transfer. -/
theorem Micro.busyOk (h : Micro i inst s t) (he : ExecEffect s t) (hs : s.controlOk) (hl : s.cur < s.ctxs.length)
    (hi : decode s.me.issued.cmd = .ok i) (hinst : instOf s.plat i = some inst) (hp : s.me.pos ≠ .ready)
    (hb : s.busyOk) : t.busyOk := by
  have hown := State.controlOk_owner hs hl hi hinst
  obtain ⟨-, hissued, -, -⟩ := he.caller
  have hti : decode t.me.issued.cmd = .ok i := by rw [hissued, hi]
  have hfits : posFits i t.me.pos = true ∨ t.me.pos = .ready :=
    (h.move.fits (((Ctx.posOk_iff hi).1 (hs s.cur hl).pos).resolve_left hp)).symm
  have hruns (b : BusId) (heq : InstId.i2c b = inst) (hx : xferRuns t.me.pos = true) :
      ∃ c i, c < t.ctxs.length ∧ t.ownerOf (.i2c b) = some c ∧ decode (t.ctxAt c).issued.cmd = .ok i ∧
        xferRuns (t.ctxAt c).pos = true ∧ heldAt t.plat i (t.ctxAt c).pos = some (.i2c b) := by
    have hq : holdsAt i t.me.pos = true :=
      holdsAt_of_xferRuns (hfits.resolve_right fun hr => by rw [hr] at hx; cases hx) hx
    refine ⟨s.cur, i, he.length ▸ hl, heq ▸ h.move.owner hown hq, ?_⟩
    rw [he.ctxAt_cur, he.plat]
    exact ⟨hti, hx, heldAt_eq_some.2 ⟨hq, heq ▸ hinst⟩⟩
  rw [State.busyOk_iff] at *
  intro b hbusy
  by_cases hwas : s.devAt (.i2c b) = .busy
  · obtain ⟨c, j, hc, ho, hj, hx, hheld⟩ := hb b hwas
    by_cases hcur : c = s.cur
    · subst hcur
      obtain rfl : j = i := Except.ok.inj (hj.symm.trans hi)
      have heq : InstId.i2c b = inst := Option.some.inj ((heldAt_eq_some.1 hheld).2.symm.trans hinst)
      refine hruns b heq ?_
      rcases h.dev.runs_of_busy (heq ▸ hbusy) with hx' | ⟨-, hx'⟩
      · exact hx'
      · exact hx'.trans hx
    · refine ⟨c, j, he.length ▸ hc, (h.same_of_owned hown hcur ho).ownerOf.trans ho, ?_⟩
      rw [he.other c hcur, he.plat]
      exact ⟨hj, hx, hheld⟩
  · have heq : InstId.i2c b = inst := by
      by_contra hne
      exact hwas ((h.others _ hne).devAt ▸ hbusy)
    refine hruns b heq ?_
    rcases h.dev.runs_of_busy (heq ▸ hbusy) with hx | ⟨hd, -⟩
    · exact hx
    · exact absurd (heq ▸ hd) hwas

end Command

/-- Issuing a command keeps every context in order: at `start` nothing is held yet. -/
theorem State.controlOk_issue {s : State} {m : Ctx} (hp : m.pos = .start) (hs : s.controlOk) : (s.setMe m).controlOk := by
  intro c hc
  rw [State.setMe_length] at hc
  by_cases hcur : c = s.cur
  · subst hcur
    have hme : (s.setMe m).ctxAt s.cur = m := State.me_setMe hc m
    rw [State.ctxOk_iff, hme, hp]
    refine ⟨?_, fun i e _ hh => ?_⟩
    · unfold Ctx.posOk
      rw [hp]
      cases decode m.issued.cmd <;> rfl
    · have := (heldAt_eq_some.1 hh).1
      rw [holdsAt_start] at this
      cases this
  · refine State.ctxOk_congr (hs c hc) rfl ?_ ?_ fun _ e _ _ => ?_
    · rw [State.ctxAt_setMe_other s m hcur]
    · rw [State.ctxAt_setMe_other s m hcur]
    · have hsame := SameInst.setMe s m e
      exact ⟨hsame.ownerOf, hsame.devAt, hsame.peAt⟩

/-- A context between two commands owns no Busy device, so it may issue one. -/
theorem State.busyOk_issue {s : State} {m : Ctx} (hr : s.me.pos = .ready) (hb : s.busyOk) : (s.setMe m).busyOk := by
  rw [State.busyOk_iff] at *
  intro b hbusy
  obtain ⟨c, i, hc, ho, hi, hx, hh⟩ := hb b hbusy
  have hcur : c ≠ s.cur := by
    rintro rfl
    have hx' : xferRuns s.me.pos = true := hx
    rw [hr] at hx'
    cases hx'
  refine ⟨c, i, by simpa using hc, ho, ?_⟩
  rw [State.ctxAt_setMe_other s m hcur]
  exact ⟨hi, hx, hh⟩

/-- Whatever the chosen agent does keeps the control invariants. -/
theorem AgentEffect.controlOk {s t : State} (h : AgentEffect s t) (hs : s.controlOk) :
    t.controlOk ∧ (s.busyOk → t.busyOk) := by
  rcases h.control with hsame | ⟨p, rest, _, hr, rfl⟩ | ⟨i, hl, hp, hi, hexec⟩
  · exact ⟨hsame.controlOk hs, hsame.busyOk⟩
  · exact ⟨State.controlOk_issue rfl hs, State.busyOk_issue hr⟩
  · rcases exec_next hl hexec with ⟨_, rfl⟩ | ⟨inst, hinst, hm⟩
    · have hsame : SameControl s (s.halted .invalidBus) := .setMe rfl rfl
      exact ⟨hsame.controlOk hs, hsame.busyOk⟩
    · have he := exec_effect hexec
      exact ⟨hm.controlOk he hs hl hi hinst hp, hm.busyOk he hs hl hi hinst hp⟩

/-- Settles O56: every command's micro-step by what `Micro` says of it, and of the other steps control sees only an issue. -/
theorem stepKeepsControl : Obligations.StepKeepsControl := by
  unfold Obligations.StepKeepsControl
  intro s t hs hstep
  obtain ⟨u, hu, rfl⟩ := step_effect hstep
  obtain ⟨hc, hb⟩ := hu.controlOk hs
  exact ⟨(SameControl.advance u).controlOk hc, fun h => (SameControl.advance u).busyOk (hb h)⟩

/-! ## No step goes wrong in control (R24, R225) -/

/-- A micro-step of a command in order is answered: the fault and the refusal need what control rules out. -/
theorem State.ctxOk.exec_next {s : State} {i : Instr} (hs : s.ctxOk s.cur) (hl : s.cur < s.ctxs.length)
    (hp : s.me.pos ≠ .ready) (hi : decode s.me.issued.cmd = .ok i) : ∃ t, exec i s = .next t := by
  have hfits : posFits i s.me.pos = true := ((Ctx.posOk_iff hi).1 hs.pos).resolve_left hp
  cases hinst : instOf s.plat i with
  | none => exact ⟨_, exec_of_instOf_none hinst⟩
  | some inst =>
    have ha : Answers i inst s (exec i s) := exec_answers hl hinst
    generalize exec i s = r at ha
    cases ha with
    | next => exact ⟨_, rfl⟩
    | lost hlost => rw [hfits] at hlost; cases hlost
    | refused ht hpe =>
      have hh : holdsAt i s.me.pos = true := holdsAt_of_programsTiming hfits ht
      obtain ⟨-, hctx⟩ := State.ctxOk_iff.1 hs
      obtain ⟨-, hoff, -⟩ := hctx i inst hi (heldAt_eq_some.2 ⟨hh, hinst⟩)
      rw [hoff ht] at hpe
      cases hpe

theorem safeStep_memAccess {a n : Nat} {s : State} {k : Result} (h : SafeStep k) : SafeStep (memAccess a n s k) := by
  rcases memAccess_cases a n s k with ⟨_, e⟩ | ⟨_, e⟩ <;> rw [e]
  · exact .inl ⟨s, rfl⟩
  · exact h

theorem callerStep_safe (s : State) : SafeStep (callerStep s) := by
  unfold callerStep
  split
  · exact .inl ⟨_, rfl⟩
  · exact .inl ⟨_, rfl⟩
  · split
    · exact .inl ⟨_, rfl⟩
    · exact .inr rfl
  · exact safeStep_memAccess (.inl ⟨_, rfl⟩)

theorem ctxStep_safe {s : State} (hs : s.controlOk) : SafeStep (ctxStep s) := by
  unfold ctxStep
  split
  · rename_i hl
    split
    · exact .inl ⟨_, rfl⟩
    · split
      · exact callerStep_safe s
      · rename_i hp
        unfold commandStep
        split
        · rename_i i hi
          exact .inl (State.ctxOk.exec_next (hs s.cur hl) hl hp hi)
        · exact .inl ⟨_, rfl⟩
  · exact .inl ⟨_, rfl⟩

theorem agentStep_safe {s : State} (hs : s.controlOk) : SafeStep (agentStep s) := by
  unfold agentStep
  cases s.turn.agent with
  | ctx => exact ctxStep_safe hs
  | port | spiStart | spiComplete | i2c | time => exact .inl ⟨_, rfl⟩

/-- Settles O57: of the agents only a context can fail to step, and its command is in order. -/
theorem controlledStepsAreSafe : Obligations.ControlledStepsAreSafe := by
  unfold Obligations.ControlledStepsAreSafe
  intro s hs
  rcases agentStep_safe hs with ⟨t, e⟩ | e <;> rw [step, e]
  · exact .inl ⟨_, rfl⟩
  · exact .inr rfl

/-! ## The device state (R36) -/

/-- Control does not see the steps of the agents other than a context. -/
theorem agentStep_sameControl {s t : State} (ha : s.turn.agent ≠ .ctx) (h : agentStep s = .next t) :
    SameControl s t := by
  unfold agentStep at h
  split at h
  · contradiction
  · cases h
    unfold portStep
    split
    · exact .refl s
    · exact .setMe (s := s) rfl rfl
  · cases h
    unfold spiStartStep
    split
    · exact .setSpi rfl
    · exact .refl s
  · cases h
    unfold spiCompleteStep
    split
    · exact (SameControl.setSpi ((SpiBus.afterFrame_inflight _).trans (SpiBus.receive_inflight ..))).trans (.emitAll ..)
    · exact .refl s
  · rename_i b k _
    cases h
    obtain ⟨ho, hd, hpe⟩ := (s.i2cAt b).stepEffect_keeps k s.turn.byte s.turn.bit
    unfold i2cPerStep
    dsimp only
    split
    · exact (SameControl.setI2c ho (by rw [hd]) hpe).trans (.emitAll ..)
    · exact .refl s
  · cases h
    exact .of_eq rfl rfl rfl rfl

/-- The changes of the device state that R36 lists. -/
theorem DevMove.changed {i : Instr} {p q : Pos} {d d' : DevState} (h : DevMove i p d q d') (hne : d' ≠ d) :
    (∃ bus, i = .i2cInit bus ∧ d' = .disabled) ∨
    (∃ bus flags, i = .i2cMasterEnable bus flags ∧ p = .enabling .state ∧ d' = .idle) ∨
    (∃ bus, i = .i2cMasterXfer bus ∧ d' = .busy ∧ (d = .idle ∨ d = .transferDone ∨ d = .error)) ∨
    (∃ bus m, i = .i2cMasterXfer bus ∧ xferRuns p = true ∧ holdsAt i p = true ∧
      ((p = .xfer m (.exitState .ok) ∧ d' = .transferDone) ∨
        ((p = .xfer m (.exitState .protocol) ∨ p = .xfer m (.exitState .timeout)) ∧ d' = .error))) := by
  cases h with
  | keep => exact absurd rfl hne
  | init bus _ hi => exact .inl ⟨bus, hi, rfl⟩
  | enable bus flags _ hi => exact .inr (.inl ⟨bus, flags, hi, rfl, rfl⟩)
  | guard bus _ _ hi hd =>
    refine .inr (.inr (.inl ⟨bus, hi, rfl, ?_⟩))
    cases d <;> simp_all [guardOpen]
  | exit bus m _ e hi =>
    subst hi
    refine .inr (.inr (.inr ⟨bus, m, rfl, rfl, rfl, ?_⟩))
    cases e
    · exact .inl ⟨rfl, rfl⟩
    · exact .inr ⟨.inl rfl, rfl⟩
    · exact .inr ⟨.inr rfl, rfl⟩

/-- A bus whose device is Busy is held by a transfer, so I2C.MASTER_ENABLE, which holds it, finds it in another
state (R146). -/
theorem devAt_ne_busy_of_owner {s : State} {b : BusId} (hb : s.busyOk) (ho : s.ownerOf (.i2c b) = some s.cur)
    (hx : xferRuns s.me.pos = false) : s.devAt (.i2c b) ≠ .busy := by
  intro hbusy
  obtain ⟨c, j, -, hc, -, hxc, -⟩ := State.busyOk_iff.1 hb b hbusy
  obtain rfl : c = s.cur := Option.some.inj (hc.symm.trans ho)
  have hxs : xferRuns s.me.pos = true := hxc
  rw [hx] at hxs
  cases hxs

theorem DevState.eq_of_ne_busy_of_ne_idle {d : DevState} (hb : d ≠ .busy) (hi : d ≠ .idle) :
    d = .disabled ∨ d = .transferDone ∨ d = .error := by
  cases d <;> simp_all

/-- Settles O58: only a micro-step of a command that names the bus can change its device state, as `DevMove` lists. -/
theorem deviceStateTransitions : Obligations.DeviceStateTransitions := by
  unfold Obligations.DeviceStateTransitions
  intro s t b hs hstep hne
  obtain ⟨u, hu, rfl⟩ := step_eq_next.1 hstep
  have hdev : u.devAt (.i2c b) ≠ s.devAt (.i2c b) := hne
  have hseen : ¬SameControl s u := fun h => hdev (h.dev _)
  refine ⟨by_contra fun ha => hseen (agentStep_sameControl ha hu), ?_⟩
  rcases (agentStep_effect hu).control with h | ⟨p, rest, -, -, rfl⟩ | ⟨i, hl, hp, hi, hexec⟩
  · exact absurd h hseen
  · exact absurd rfl hdev
  rcases exec_next hl hexec with ⟨-, rfl⟩ | ⟨inst, hinst, hm⟩
  · exact absurd rfl hdev
  obtain rfl : inst = .i2c b := by_contra fun h => hdev (hm.others _ (Ne.symm h)).devAt
  have hbus : i2cBusOf s.plat i.bus = some b := by
    cases hspi : i.isSpi with
    | true => obtain ⟨d, hd, -⟩ := spiBusOf_of_instOf hspi hinst; cases hd
    | false => obtain ⟨d, hd, hbus⟩ := i2cBusOf_of_instOf hspi hinst; cases hd; exact hbus
  refine ⟨i, hi, hbus, ?_⟩
  rcases hm.dev.changed hdev with h | ⟨bus, flags, rfl, hpos, hd⟩ | h | ⟨bus, m, rfl, hx, hh, hd⟩
  · exact .inl h
  · refine .inr (.inl ⟨bus, flags, rfl, hd, fun hb => ?_⟩)
    have ho := State.controlOk_owner hs hl hi hinst (by rw [hpos]; rfl)
    have hnb := devAt_ne_busy_of_owner hb ho (by rw [hpos]; rfl)
    have hni : s.devAt (.i2c b) ≠ .idle := fun h => hdev (hd.trans h.symm)
    exact DevState.eq_of_ne_busy_of_ne_idle hnb hni
  · exact .inr (.inr (.inl h))
  · exact .inr (.inr (.inr ⟨bus, m, rfl, (hs s.cur hl).busy _ b hi hx (heldAt_eq_some.2 ⟨hh, hinst⟩), hd⟩))

/-! # A master's SPI.READ with nothing to clock (R128, R214) -/

/-- A master that context c owns, with nothing received, nothing to send and nothing in flight. -/
structure SpiBus.Starved (x : SpiBus) (c : Nat) : Prop where
  owner  : x.inflight = some c
  master : x.mstr = true
  unsent : x.txe = true
  idle   : x.shActive = false
  empty  : x.rxne = false

theorem SpiBus.Starved.not_startEnabled {x : SpiBus} {c : Nat} (h : x.Starved c) : x.startEnabled = false := by
  simp [SpiBus.startEnabled, h.master, h.unsent]

theorem SpiBus.Starved.not_completeEnabled {x : SpiBus} {c : Nat} (h : x.Starved c) : x.completeEnabled = false := by
  simp [SpiBus.completeEnabled, h.idle]

/-- A status read clears at most OVR (R72). -/
theorem SpiBus.Starved.readSr {x : SpiBus} {c : Nat} (h : x.Starved c) : x.readSr.2.Starved c := by
  have hbit (j : Nat) (hj : spiOVR ≠ j) : testBit x.readSr.2.sr j = testBit x.sr j := by
    unfold SpiBus.readSr
    dsimp only
    split
    · rw [testBit_clearBit, decide_eq_true hj, Bool.and_true]
    · rfl
  exact {
    owner := h.owner
    master := h.master
    unsent := (hbit spiTXE (by decide)).trans h.unsent
    idle := (hbit spiBSY (by decide)).trans h.idle
    empty := (hbit spiRXNE (by decide)).trans h.empty }

theorem ReadWaits.starved {s : State} {c : Nat} {b : BusId} {k : Nat} (h : ReadWaits s c b k) :
    (s.spiAt b).Starved c := ⟨h.owner, h.master, h.unsent, h.idle, h.empty⟩

section Waiting

variable {s t : State} {c : Nat} {b : BusId} {k : Nat}

/-- The wait goes on where its context and its bus stay as they are and no other context comes to hold the bus. -/
theorem ReadWaits.keep (h : ReadWaits s c b k) (hplat : t.plat = s.plat)
    (hissued : (t.ctxAt c).issued = (s.ctxAt c).issued) (hpos : (t.ctxAt c).pos = (s.ctxAt c).pos)
    (hfault : (t.ctxAt c).fault = (s.ctxAt c).fault) (hbus : (t.spiAt b).Starved c)
    (hothers : ∀ d i, d ≠ c → decode (t.ctxAt d).issued.cmd = .ok i →
      heldAt s.plat i (t.ctxAt d).pos ≠ some (.spi b)) : ReadWaits t c b k where
  command := by rw [hissued, hplat]; exact h.command
  waiting := by rw [hpos]; exact h.waiting
  live := by rw [hfault]; exact h.live
  owner := hbus.owner
  others := by rw [hplat]; exact hothers
  master := hbus.master
  unsent := hbus.unsent
  idle := hbus.idle
  empty := hbus.empty

/-- What touches neither the contexts nor the SPI buses. -/
theorem ReadWaits.of_eq (h : ReadWaits s c b k) (hc : t.ctxs = s.ctxs) (hs : t.spi = s.spi) (hp : t.plat = s.plat) :
    ReadWaits t c b k := by
  have hctx (d : Nat) : t.ctxAt d = s.ctxAt d := by rw [State.ctxAt, hc, State.ctxAt]
  have hbus : t.spiAt b = s.spiAt b := by rw [State.spiAt, hs, State.spiAt]
  refine h.keep hp (by rw [hctx]) (by rw [hctx]) (by rw [hctx]) (hbus ▸ h.starved) fun d i hd hi => ?_
  rw [hctx] at hi ⊢
  exact h.others d i hd hi

/-- Another bus may change, and this one as far as it stays starved. -/
theorem ReadWaits.setSpi (h : ReadWaits s c b k) {d : BusId} {x : SpiBus} (hx : d = b → x.Starved c) :
    ReadWaits (s.setSpi d x) c b k := by
  refine h.keep rfl rfl rfl rfl ?_ h.others
  by_cases hd : b = d
  · subst hd; simpa using hx rfl
  · rw [State.spiAt_setSpi_other s x hd]; exact h.starved

/-- A context may change what control does not see, and a context other than the waiting one may halt. -/
theorem ReadWaits.setMe (h : ReadWaits s c b k) {m : Ctx} (hi : m.issued = s.me.issued) (hp : m.pos = s.me.pos)
    (hf : c = s.cur → m.fault = s.me.fault) : ReadWaits (s.setMe m) c b k := by
  have hissued := State.ctxAt_setMe_keeps Ctx.issued hi
  have hpos := State.ctxAt_setMe_keeps Ctx.pos hp
  refine h.keep rfl (hissued c) (hpos c) ?_ h.starved fun d i hd hi => ?_
  · by_cases hc : c = s.cur
    · exact State.ctxAt_setMe_keeps Ctx.fault (hf hc) c
    · rw [State.ctxAt_setMe_other s m hc]
  · rw [hissued] at hi
    rw [hpos]
    exact h.others d i hd hi

/-- Another context may issue a command: at `start` it holds nothing. -/
theorem ReadWaits.issue (h : ReadWaits s c b k) (hc : c ≠ s.cur) (hl : s.cur < s.ctxs.length) {m : Ctx}
    (hm : m.pos = .start) : ReadWaits (s.setMe m) c b k := by
  have hctx := State.ctxAt_setMe_other s m hc
  refine h.keep rfl (by rw [hctx]) (by rw [hctx]) (by rw [hctx]) h.starved fun d i hd hi => ?_
  by_cases hcur : d = s.cur
  · have hme : (s.setMe m).ctxAt d = m := hcur ▸ State.me_setMe hl m
    rw [hme, hm, ne_eq, heldAt_eq_some, holdsAt_start]
    exact nofun
  · rw [State.ctxAt_setMe_other s m hcur] at hi ⊢
    exact h.others d i hd hi

/-- The waiting context's own micro-step is one more status read (R127). -/
theorem ReadWaits.exec_self (h : ReadWaits s c b k) (hc : c = s.cur) {i : Instr}
    (hi : decode s.me.issued.cmd = .ok i) : exec i s = .next (s.setSpi b (s.spiAt b).readSr.2) := by
  subst hc
  obtain ⟨bus, hcmd, hb⟩ := h.command
  obtain rfl : i = .spiRead bus := Except.ok.inj (hi.symm.trans hcmd)
  have hpos : s.me.pos = .reading (.wait k) := h.waiting
  have hrxne : testBit (s.spiAt b).readSr.1 spiRXNE = false := h.empty
  have hstays : (s.setSpi b (s.spiAt b).readSr.2).goto (.reading (.wait k)) = s.setSpi b (s.spiAt b).readSr.2 :=
    State.goto_self hpos
  simp only [exec, execSpiRead, hb, hpos, spiReadStep, spiPoll, hrxne, Bool.false_eq_true, if_false, hstays]

/-- A micro-step of another context does not come to the bus: that context does not hold it, and cannot claim it. -/
theorem ReadWaits.exec_other (h : ReadWaits s c b k) (hc : c ≠ s.cur) (hl : s.cur < s.ctxs.length) {i : Instr}
    (hi : decode s.me.issued.cmd = .ok i) (hexec : exec i s = .next t) : ReadWaits t c b k := by
  rcases exec_next hl hexec with ⟨-, rfl⟩ | ⟨inst, hinst, hm⟩
  · exact h.setMe rfl rfl fun hcur => absurd hcur hc
  have he : ExecEffect s t := exec_effect hexec
  have hfree (hb : inst = .spi b) : holdsAt i s.me.pos = false := by
    refine Bool.eq_false_iff.2 fun hh => ?_
    exact h.others s.cur i hc.symm hi (heldAt_eq_some.2 ⟨hh, hb ▸ hinst⟩)
  have howned : s.ownerOf (.spi b) ≠ none := fun hn => nomatch h.owner.symm.trans hn
  have hsame : SameInst s t (.spi b) := by
    by_cases hb : InstId.spi b = inst
    · subst hb
      rcases hm.frame with hsame | hh | ⟨-, hn⟩
      · exact hsame
      · rw [hfree rfl] at hh; cases hh
      · exact absurd hn howned
    · exact hm.others _ hb
  have hbus : t.spiAt b = s.spiAt b := hsame
  have hctx := he.other c hc
  refine h.keep he.plat (by rw [hctx]) (by rw [hctx]) (by rw [hctx]) (hbus ▸ h.starved) fun d j hd hj hheld => ?_
  by_cases hcur : d = s.cur
  · subst hcur
    obtain ⟨-, hissued, -, -⟩ := he.caller
    rw [he.ctxAt_cur] at hj hheld
    obtain rfl : j = i := Except.ok.inj (hj.symm.trans (hissued ▸ hi))
    obtain ⟨hq, hb⟩ := heldAt_eq_some.1 hheld
    obtain rfl : inst = .spi b := Option.some.inj (hinst.symm.trans hb)
    rw [hm.move.not_holds (hfree rfl) howned] at hq
    cases hq
  · rw [he.other d hcur] at hj hheld
    exact h.others d j hd hj hheld

/-- A context that waits is not one between two commands. -/
theorem ReadWaits.ne_cur_of_ready (h : ReadWaits s c b k) (hr : s.me.pos = .ready) : c ≠ s.cur := by
  rintro rfl
  have hw : s.me.pos = .reading (.wait k) := h.waiting
  rw [hr] at hw
  cases hw

/-- Whatever the chosen agent does, the wait goes on. -/
theorem AgentEffect.readWaits (hu : AgentEffect s t) (h : ReadWaits s c b k) : ReadWaits t c b k := by
  cases hu with
  | idle => exact h
  | command i t hl _ _ hi hexec =>
    by_cases hc : c = s.cur
    · rw [h.exec_self hc hi] at hexec
      exact Host.Outcome.next.inj hexec ▸ h.setSpi fun _ => h.starved.readSr
    · exact h.exec_other hc hl hi hexec
  | illegal e _ _ _ hi =>
    refine h.setMe rfl rfl ?_
    rintro rfl
    obtain ⟨bus, hcmd, -⟩ := h.command
    exact nomatch hi.symm.trans hcmd
  | issue _ _ hl _ hr => exact h.issue (h.ne_cur_of_ready hr) hl rfl
  | readRes => exact h.setMe rfl rfl fun _ => rfl
  | store a v rest =>
    have hmem : ReadWaits (s.setMem (s.mem.write a.toNat v)) c b k := h.of_eq rfl rfl rfl
    exact hmem.setMe rfl rfl fun _ => rfl
  | port => exact h.setMe rfl rfl fun _ => rfl
  | spiStart d v _ hen =>
    refine h.setSpi fun hd => ?_
    rw [hd, h.starved.not_startEnabled] at hen
    cases hen
  | spiComplete d v _ hen =>
    have hbus : ReadWaits (s.setSpi d ((s.spiAt d).receive v).afterFrame) c b k := h.setSpi fun hd => by
      rw [hd, h.starved.not_completeEnabled] at hen
      cases hen
    exact hbus.of_eq rfl rfl rfl
  | i2c => exact h.of_eq rfl rfl rfl
  | time => exact h.of_eq rfl rfl rfl

end Waiting

/-- Settles O26: of all the steps only the waiting context's own status reads and another context's commands come near the
bus; the reads change at most OVR, and the commands find the bus held. -/
theorem masterReadWaitsForEver : Obligations.MasterReadWaitsForEver := by
  unfold Obligations.MasterReadWaitsForEver
  intro s t c b k h hstep
  obtain ⟨u, hu, rfl⟩ := step_effect hstep
  exact (hu.readWaits h).of_eq rfl rfl rfl

/-! # Contexts (R23, R24, R28) -/

/-- A context's own step needs it to be live (R210), and no step reaches another context. -/
theorem AgentEffect.ctxAt_of_halted {s t : State} (h : AgentEffect s t) {c : Nat}
    (hc : (s.ctxAt c).fault.isSome = true) : t.ctxAt c = s.ctxAt c := by
  have hne (hf : s.me.fault = none) : c ≠ s.cur := by
    rintro rfl
    rw [show (s.ctxAt s.cur).fault = none from hf] at hc
    cases hc
  cases h with
  | idle | spiStart | spiComplete | i2c | time => rfl
  | command i t _ hf _ _ hexec => exact (exec_effect hexec).other c (hne hf)
  | illegal _ _ hf => exact State.ctxAt_setMe_other _ _ (hne hf)
  | issue _ _ _ hf => exact State.ctxAt_setMe_other _ _ (hne hf)
  | readRes _ _ hf => exact State.ctxAt_setMe_other _ _ (hne hf)
  | store a v _ _ hf => exact State.ctxAt_setMe_other (s.setMem (s.mem.write a.toNat v)) _ (hne hf)
  | port _ hf => exact State.ctxAt_setMe_other _ _ (hne hf)

/-- Settles O6: every act of a context needs it live, and no step reaches another context. -/
theorem haltedContextNeverChanges : Obligations.HaltedContextNeverChanges := by
  unfold Obligations.HaltedContextNeverChanges
  intro s t c hstep hc
  obtain ⟨u, hu, rfl⟩ := step_effect hstep
  exact hu.ctxAt_of_halted hc

/-- Only an issue changes a snapshot, and a context that runs a command issues none (R23). -/
theorem AgentEffect.issued_of_running {s t : State} (h : AgentEffect s t) {c : Nat} (hc : (s.ctxAt c).pos ≠ .ready) :
    (t.ctxAt c).issued = (s.ctxAt c).issued := by
  rcases h.control with hsame | ⟨p, rest, -, hr, rfl⟩ | ⟨i, -, -, -, hexec⟩
  · exact hsame.issued c
  · have hcur : c ≠ s.cur := by rintro rfl; exact hc hr
    rw [State.ctxAt_setMe_other s _ hcur]
  · have he := exec_effect hexec
    by_cases hcur : c = s.cur
    · subst hcur
      obtain ⟨-, hissued, -, -⟩ := he.caller
      rw [he.ctxAt_cur, hissued, State.me]
    · rw [he.other c hcur]

/-- A step of a context with no command running is its caller's act. -/
theorem step_of_caller {s : State} (ha : s.turn.agent = .ctx) (hs : RunsAt s .ready) :
    step s = andThen (callerStep s) fun t => .next t.advance := by
  simp [step, agentStep, ha, ctxStep, hs.here, hs.live, hs.pos]

/-- A step that writes the port of a live context. -/
theorem step_of_port {s : State} {a b c d : Word} (ha : s.turn.agent = .port a b c d) (hf : s.me.fault = none) :
    step s = .next (s.setMe { s.me with port := { cmd := a, arg0 := b, arg1 := c, arg2 := d } }).advance := by
  have hlive : (s.ctxAt s.cur).fault = none := hf
  simp [step, agentStep, ha, portStep, hlive, State.setMe, State.me]

/-- Settles O7: the issue by the caller's step, the snapshot by control, the port by its own step. -/
theorem issueTakesASnapshot : Obligations.IssueTakesASnapshot := by
  unfold Obligations.IssueTakesASnapshot
  refine ⟨fun s p rest ha hs hp => ?_, fun s t c hstep hc => ?_, fun s a b c d => step_of_port⟩
  · rw [step_of_caller ha hs, callerStep, hp]
    rfl
  · obtain ⟨u, hu, rfl⟩ := step_effect hstep
    exact hu.issued_of_running hc

/-- A context that does not exist reads as one at power-on. -/
theorem State.ctxAt_of_length_le {s : State} {c : Nat} (h : s.ctxs.length ≤ c) : s.ctxAt c = Ctx.reset := by
  simp [State.ctxAt, List.getElem?_eq_none h]

/-- A command that is no writer of RES leaves it (R24). -/
theorem exec_keeps_res {i : Instr} {s t : State} (h : exec i s = .next t) (hw : i.writesRes = false) :
    t.me.res = s.me.res ∧ t.me.resWritten = s.me.resWritten := by
  have he : ExecEffect s t := exec_effect h
  rcases Nat.lt_or_ge s.cur s.ctxs.length with hl | hl
  · rcases exec_next hl h with ⟨-, rfl⟩ | ⟨inst, -, hm⟩
    · have hme : (s.halted .invalidBus).me = _ := State.me_setMe hl _
      rw [hme]
      exact ⟨rfl, rfl⟩
    · exact hm.res hw
  · have hs : s.me = Ctx.reset := State.ctxAt_of_length_le hl
    have ht : t.me = Ctx.reset := he.ctxAt_cur ▸ State.ctxAt_of_length_le (he.length ▸ hl)
    rw [hs, ht]
    exact ⟨rfl, rfl⟩

/-- Every context is at power-on as R233 says. -/
theorem State.reset_ctxAt (c : Nat) : State.reset.ctxAt c = Ctx.reset := by
  rcases c with _ | c
  · rfl
  · simp only [State.ctxAt, State.reset, List.getD_cons_succ]
    rcases Nat.lt_or_ge c Config.extraContexts with h | h
    · simp [h]
    · simp [h]

/-- Settles O8: what `Micro` says of RES, the frame of every command, and the reads of RES by the caller's step. -/
theorem resWrittenByFourCommands : Obligations.ResWrittenByFourCommands := by
  unfold Obligations.ResWrittenByFourCommands
  refine ⟨fun i s t => exec_keeps_res, fun i s t c h => (exec_effect h).other c, fun c => ?_,
    fun s rest ha hs hp hw => ?_, fun s rest ha hs hp hw => ?_⟩
  · rw [State.reset_ctxAt]
    rfl
  · simp [step_of_caller ha hs, callerStep, hp, hw, andThen]
  · simp [step_of_caller ha hs, callerStep, hp, hw]

theorem State.reset_spiAt (b : BusId) : State.reset.spiAt b = SpiBus.reset := by cases b <;> rfl

theorem State.reset_i2cAt (b : BusId) : State.reset.i2cAt b = I2cBus.reset b := by cases b <;> rfl

/-- Settles O9: every context and every bus is the one `reset` names. -/
theorem powerOnValues : Obligations.PowerOnValues := by
  unfold Obligations.PowerOnValues
  refine ⟨Nat.succ_pos _, fun c => ?_, fun b => ?_, fun b => ?_, rfl⟩
  · rw [State.reset_ctxAt]
    exact ⟨rfl, rfl, rfl, rfl⟩
  · rw [State.reset_spiAt]
    exact ⟨rfl, rfl, rfl, rfl, rfl, rfl, rfl, rfl, rfl, rfl, rfl, rfl, rfl, rfl, rfl⟩
  · rw [State.reset_i2cAt]
    exact ⟨rfl, rfl, rfl, rfl, rfl, rfl, rfl, rfl, rfl, rfl, rfl, rfl, rfl, rfl, rfl, rfl, rfl, rfl, rfl⟩

/-! # Data bytes and the stop on an I2C bus (R197, R198, R200) -/

/-- A step of a peripheral that exists and whose step is enabled. -/
theorem step_of_i2c {s : State} {b : BusId} {k : I2cStep} (ha : s.turn.agent = .i2c b k)
    (hv : i2cValid s.plat b = true) (hen : (s.i2cAt b).stepEnabled k = true) :
    step s = .next ((s.setI2c b ((s.i2cAt b).stepEffect k s.turn.byte s.turn.bit)).emitAll
      ((s.i2cAt b).stepEvents b k s.turn.byte s.turn.bit)).advance := by
  simp [step, agentStep, ha, i2cPerStep, hv, hen]

/-- A step of a peripheral that is not enabled is idle. -/
theorem step_of_i2c_disabled {s : State} {b : BusId} {k : I2cStep} (ha : s.turn.agent = .i2c b k)
    (hen : (s.i2cAt b).stepEnabled k = false) : step s = .next s.advance := by
  simp [step, agentStep, ha, i2cPerStep, hen]

theorem I2cBus.sendData_of_tx {x : I2cBus} (hp : x.phase = .tx) (ack : Bool) : x.sendData ack = { x with
    txPending := false
    sr1 := if ack then setBit (setBit x.sr1 i2cTXE) i2cBTF else setBit x.sr1 i2cAF
    phase := if ack then .tx else .failed } := by
  cases ack <;> simp [I2cBus.sendData, I2cBus.nack, hp]

/-- Settles O48: each step is enabled or idle, and its effect is the one of its rule. -/
theorem i2cDataAndStopSteps : Obligations.I2cDataAndStopSteps := by
  unfold Obligations.I2cDataAndStopSteps
  intro s b hv hpe hconn
  refine ⟨fun ha hphase hpend => ?_, fun ha hphase hrxne => ?_, fun ha hstop hidle => ?_⟩
  · have hen : (s.i2cAt b).stepEnabled .transmit = true := by
      simp [I2cBus.stepEnabled, I2cBus.stepReady, hpe, hconn, hphase, hpend]
    rw [step_of_i2c ha hv hen, I2cBus.stepEffect, I2cBus.sendData_of_tx hphase]
    rfl
  · cases hn : (s.i2cAt b).nacked with
    | true =>
      have hen : (s.i2cAt b).stepEnabled .receive = false := by simp [I2cBus.stepEnabled, I2cBus.stepReady, hn]
      rw [step_of_i2c_disabled ha hen]
      rfl
    | false =>
      have hen : (s.i2cAt b).stepEnabled .receive = true := by
        simp [I2cBus.stepEnabled, I2cBus.stepReady, hpe, hconn, hphase, hrxne, hn]
      have hnacked : (if (s.i2cAt b).ack then (s.i2cAt b).nacked else true) = !(s.i2cAt b).ack := by
        cases (s.i2cAt b).ack <;> simp [hn]
      rw [step_of_i2c ha hv hen, I2cBus.stepEffect, I2cBus.receiveData, hnacked]
      rfl
  · have hsent : ((s.i2cAt b).phase == .tx && (s.i2cAt b).txPending) = false :=
      Bool.eq_false_iff.2 (by simpa using hidle)
    have hen : (s.i2cAt b).stepEnabled .stop = true := by
      simp [I2cBus.stepEnabled, I2cBus.stepReady, hpe, hconn, hstop, hsent]
    rw [step_of_i2c ha hv hen]
    rfl

/-! # The micro-steps inside a message of I2C.MASTER_XFER (R153, R160 to R166) -/

/-- A micro-step inside a message is `xferStep`. -/
theorem exec_i2cMasterXfer_xfer {s : State} {bus : BitVec 4} {b : BusId} {m : Msg} {p : XferPos}
    (hb : i2cBusOf s.plat bus = some b) (hp : s.me.pos = .xfer m p) :
    exec (.i2cMasterXfer bus) s = xferStep b m p s := by
  simp [exec, execI2cMasterXfer, hb, hp]

/-- An access that the platform admits takes place (R67). -/
theorem memAccess_of_allows {a n : Nat} {s : State} {k : Result} (h : allows s.plat a n = true) :
    memAccess a n s k = k := by
  simp [memAccess, h]

section Message

variable {s : State} {bus : BitVec 4} {b : BusId} {m : Msg} {p : XferPos} {q : Pos}

/-- The next micro-step of a run inside a message. -/
theorem runExec_xfer (hl : s.cur < s.ctxs.length) (hb : i2cBusOf s.plat bus = some b) (n : Nat) :
    runExec (.i2cMasterXfer bus) (n + 1) (s.goto (.xfer m p)) =
      andThen (xferStep b m p (s.goto (.xfer m p))) (runExec (.i2cMasterXfer bus) n) := by
  have hpos : (s.goto (.xfer m p)).me.pos = .xfer m p := by rw [State.me_goto hl]
  rw [runExec_succ, exec_i2cMasterXfer_xfer (s := s.goto (.xfer m p)) hb hpos]

@[simp] theorem State.goto_cursorAt (s : State) (q : Pos) (b : BusId) : (s.goto q).cursorAt b = s.cursorAt b := rfl

theorem State.setMem_goto (s : State) (n : Memory) (q : Pos) : (s.goto q).setMem n = (s.setMem n).goto q := rfl

/-! ## Waits (R165, R166) -/

/-- The state after the SR1 read of a wait (R60, R73). -/
def State.armedSr1 (s : State) (b : BusId) : State := s.setI2c b { s.i2cAt b with armed1 := true }

@[simp] theorem State.armedSr1_i2cAt (s : State) (b : BusId) :
    (s.armedSr1 b).i2cAt b = { s.i2cAt b with armed1 := true } := State.i2cAt_setI2c ..

@[simp] theorem State.armedSr1_cursorAt (s : State) (b : BusId) : (s.armedSr1 b).cursorAt b = s.cursorAt b := by
  rw [State.cursorAt, State.armedSr1_i2cAt, State.cursorAt]

/-- A fault is seen before any condition (R165). -/
theorem xferStep_wait_fault (w : WaitPt) (hf : hasFault (s.i2cAt b).sr1 = true) :
    xferStep b m (.wait w .sr1) s = .next ((s.armedSr1 b).goto (.xfer m (.faultFlags (s.i2cAt b).sr1))) := by
  simp only [xferStep, waitStep, I2cBus.readSr1, hf, if_true, State.armedSr1]

/-- A condition on SR1 is tested on the value read. -/
theorem xferStep_wait_flag {w : WaitPt} {i : Nat} (hf : hasFault (s.i2cAt b).sr1 = false) (hw : w.sr1Bit = some i) :
    xferStep b m (.wait w .sr1) s = .next ((s.armedSr1 b).goto
      (if testBit (s.i2cAt b).sr1 i then afterWait (s.armedSr1 b) b m w else .xfer m (.wait w .now))) := by
  cases h : testBit (s.i2cAt b).sr1 i <;> simp [xferStep, waitStep, I2cBus.readSr1, hf, hw, h, State.armedSr1]

/-- A condition on CR1 is tested in a micro-step of its own. -/
theorem xferStep_wait_pending {w : WaitPt} (hf : hasFault (s.i2cAt b).sr1 = false) (hw : w.sr1Bit = none) :
    xferStep b m (.wait w .sr1) s = .next ((s.armedSr1 b).goto (.xfer m (.wait w .cr1))) := by
  simp only [xferStep, waitStep, I2cBus.readSr1, hf, hw, Bool.false_eq_true, if_false, State.armedSr1]

theorem hasFault_eq_true {v : Word} : hasFault v = true ↔ v &&& 0x00004F00 ≠ 0 := by simp [hasFault, errMask]

theorem hasFault_eq_false {v : Word} : hasFault v = false ↔ v &&& 0x00004F00 = 0 := by simp [hasFault, errMask]

theorem noPending_eq_true {v : Word} : noPending v = true ↔ v &&& 0x00001300 = 0 := by simp [noPending, pendMask]

/-- Where a message ends depends on the cursor alone. -/
theorem afterMessage_congr {s t : State} {b : BusId} (h : t.cursorAt b = s.cursorAt b) (m : Msg) :
    afterMessage t b m = afterMessage s b m := by
  unfold afterMessage; rw [h]

theorem afterWait_congr {s t : State} {b : BusId} (h : t.cursorAt b = s.cursorAt b) (m : Msg) (w : WaitPt) :
    afterWait t b m w = afterWait s b m w := by
  cases w with
  | btf => exact afterMessage_congr h m
  | _ => rfl

/-- The CR1 read of a wait, first in a run. -/
theorem runExec_wait_cr1 (hl : s.cur < s.ctxs.length) (hb : i2cBusOf s.plat bus = some b) (w : WaitPt) (n : Nat) :
    runExec (.i2cMasterXfer bus) (n + 1) (s.goto (.xfer m (.wait w .cr1))) = runExec (.i2cMasterXfer bus) n
      (s.goto (if (s.i2cAt b).cr1 &&& 0x00001300 = 0 then afterWait s b m w else .xfer m (.wait w .now))) := by
  rw [runExec_xfer hl hb]
  simp only [xferStep, waitStep, State.goto_goto hl, State.goto_i2cAt, noPending_eq_true, andThen_next,
    afterWait_congr (State.goto_cursorAt s _ b)]

/-- The time test of a wait, first in a run (R165, R166). -/
theorem runExec_wait_now (hl : s.cur < s.ctxs.length) (hb : i2cBusOf s.plat bus = some b) (w : WaitPt) (n : Nat) :
    runExec (.i2cMasterXfer bus) (n + 1) (s.goto (.xfer m (.wait w .now))) = runExec (.i2cMasterXfer bus) n
      (s.goto (.xfer m (if (s.cursorAt b).timeout.toNat < (s.now - (s.cursorAt b).t0).toNat then .exitStop .timeout
        else .wait w .sr1))) := by
  rw [runExec_xfer hl hb]
  simp only [xferStep, waitStep, timedOut, State.goto_goto hl, State.goto_cursorAt, State.goto_now, andThen_next,
    decide_eq_true_eq]

end Message

/-- Settles O41: the SR1 read decides, or leaves it to the CR1 read, and what neither decides the time test does. -/
theorem waitIterationOrder : Obligations.WaitIterationOrder := by
  unfold Obligations.WaitIterationOrder
  intro s bus b m w bit after hb hs hbit hafter
  have hbit : w.sr1Bit = bit := by rw [hbit]; cases w <;> rfl
  have hafter : afterWait (s.armedSr1 b) b m w = after := by
    rw [afterWait_congr (State.armedSr1_cursorAt s b), hafter]
    cases w <;> rfl
  have hexec := exec_i2cMasterXfer_xfer hb hs.pos
  have hcr1 := runExec_wait_cr1 (s := s.armedSr1 b) (m := m) hs.here hb w
  have hnow := runExec_wait_now (s := s.armedSr1 b) (m := m) hs.here hb w 0
  rw [State.armedSr1_cursorAt] at hnow
  rw [hafter, State.armedSr1_i2cAt] at hcr1
  refine ⟨fun hf => ?_, fun i hf hi hset => ?_, fun i hf hi hclear => ?_, fun hf hi hfree => ?_,
    fun hf hi hpend => ?_⟩
  · rw [hexec, xferStep_wait_fault w (hasFault_eq_true.2 hf)]
    rfl
  · rw [hexec, xferStep_wait_flag (hasFault_eq_false.2 hf) (hbit.trans hi), if_pos hset, hafter]
    rfl
  · refine ⟨_, ?_, hnow⟩
    rw [hexec, xferStep_wait_flag (hasFault_eq_false.2 hf) (hbit.trans hi), hclear]
    rfl
  · refine ⟨_, hexec.trans (xferStep_wait_pending (hasFault_eq_false.2 hf) (hbit.trans hi)), ?_⟩
    rw [hcr1, if_pos hfree]
    rfl
  · refine ⟨_, hexec.trans (xferStep_wait_pending (hasFault_eq_false.2 hf) (hbit.trans hi)), ?_⟩
    rw [hcr1, if_neg hpend, hnow]
    rfl

/-! ## Data bytes (R160 to R163) -/

section Message

variable {s : State} {bus : BitVec 4} {b : BusId} {m : Msg} {k : Nat}

/-- Clearing ACK disables nothing (R73, R161). -/
theorem I2cBus.writeCr1_clearAck (x : I2cBus) : x.writeCr1 (clearBit x.cr1 i2cACK) =
    { x with cr1 := clearBit x.cr1 i2cACK &&& i2cCr1Mask } := by
  rcases x.writeCr1_cases (clearBit x.cr1 i2cACK) with ⟨hpe, hoff, -⟩ | ⟨-, e⟩
  · rw [testBit_clearBit, show testBit x.cr1 i2cPE = true from hpe] at hoff
    cases hoff
  · exact e

/-- What lies ahead of a transfer depends on the cursor alone. -/
theorem currentDesc_congr {s t : State} {b : BusId} (h : t.cursorAt b = s.cursorAt b) :
    currentDesc t b = currentDesc s b := by
  unfold currentDesc; rw [h]

theorem afterRx_congr {s t : State} {b : BusId} (h : t.cursorAt b = s.cursorAt b) (m : Msg) (k : Nat) :
    afterRx t b m k = afterRx s b m k := by
  unfold afterRx; rw [afterMessage_congr h]

@[simp] theorem State.goto_currentDesc (s : State) (q : Pos) (b : BusId) :
    currentDesc (s.goto q) b = currentDesc s b := rfl

@[simp] theorem State.goto_afterRx (s : State) (q : Pos) (b : BusId) (m : Msg) (k : Nat) :
    afterRx (s.goto q) b m k = afterRx s b m k := rfl

@[simp] theorem State.setMem_afterRx (s : State) (n : Memory) (b : BusId) (m : Msg) (k : Nat) :
    afterRx (s.setMem n) b m k = afterRx s b m k := rfl

/-- Of two moves after an access the later one counts. -/
theorem State.setI2c_goto_goto (hl : s.cur < s.ctxs.length) (x : I2cBus) (p q : Pos) :
    ((s.setI2c b x).goto p).goto q = (s.setI2c b x).goto q := State.goto_goto (s := s.setI2c b x) hl p q

theorem State.setMem_goto_goto (hl : s.cur < s.ctxs.length) (n : Memory) (p q : Pos) :
    ((s.setMem n).goto p).goto q = (s.setMem n).goto q := State.goto_goto (s := s.setMem n) hl p q

theorem memWrite8_of_allows {a : Nat} {v : Byte} {f : State → Result} (h : allows s.plat a 1 = true) :
    memWrite8 a v s f = f (s.setMem (s.mem.write a v)) := memAccess_of_allows h

theorem memWrite16_of_allows {a : Nat} {v : Half} {f : State → Result} (h : allows s.plat a 2 = true) :
    memWrite16 a v s f = f (s.setMem (s.mem.write16 a v)) := memAccess_of_allows h

theorem memRead8_of_allows {a : Nat} {f : Byte → Result} (h : allows s.plat a 1 = true) :
    memRead8 a s f = f (s.mem.read a) := memAccess_of_allows h

/-- ACK is cleared before the last byte but one is read (R161). -/
theorem runExec_ackOff (hl : s.cur < s.ctxs.length) (hb : i2cBusOf s.plat bus = some b) (n : Nat) :
    runExec (.i2cMasterXfer bus) (n + 1) (s.goto (.xfer m (.ackOff k))) = runExec (.i2cMasterXfer bus) n
      ((s.setI2c b { s.i2cAt b with cr1 := clearBit (s.i2cAt b).cr1 i2cACK &&& i2cCr1Mask }).goto
        (.xfer m (.rxData k))) := by
  rw [runExec_xfer hl hb, xferStep, State.goto_i2cAt, State.modifyI2cCr1, State.goto_i2cAt, I2cBus.writeCr1_clearAck,
    State.setI2c_goto, State.setI2c_goto_goto hl, andThen_next]

/-- A byte is read from DR (R73, R161). -/
theorem runExec_rxData (hl : s.cur < s.ctxs.length) (hb : i2cBusOf s.plat bus = some b) (n : Nat) :
    runExec (.i2cMasterXfer bus) (n + 1) (s.goto (.xfer m (.rxData k))) = runExec (.i2cMasterXfer bus) n
      ((s.setI2c b (s.i2cAt b).readDr.2).goto (.xfer m (.rxStore k (s.i2cAt b).drValue))) := by
  have hbyte : (s.i2cAt b).readDr.1.setWidth 8 = (s.i2cAt b).drValue := by simp [I2cBus.readDr]
  rw [runExec_xfer hl hb, xferStep, State.goto_i2cAt, State.setI2c_goto, State.setI2c_goto_goto hl, hbyte,
    andThen_next]

/-- The byte is stored (R161). -/
theorem runExec_rxStore (hl : s.cur < s.ctxs.length) (hb : i2cBusOf s.plat bus = some b) {v : Byte}
    (ha : allows s.plat (m.data.toNat + k) 1 = true) (n : Nat) :
    runExec (.i2cMasterXfer bus) (n + 1) (s.goto (.xfer m (.rxStore k v))) = runExec (.i2cMasterXfer bus) n
      ((s.setMem (s.mem.write (m.data.toNat + k) v)).goto (.xfer m (.rxCount k))) := by
  rw [runExec_xfer hl hb, xferStep, memWrite8_of_allows (s := s.goto _) ha, State.goto_mem, State.setMem_goto,
    State.setMem_goto_goto hl, andThen_next]

/-- The byte is counted in `xferred` (R161). -/
theorem runExec_rxCount (hl : s.cur < s.ctxs.length) (hb : i2cBusOf s.plat bus = some b)
    (ha : allows s.plat (currentDesc s b + 6) 2 = true) (n : Nat) :
    runExec (.i2cMasterXfer bus) (n + 1) (s.goto (.xfer m (.rxCount k))) = runExec (.i2cMasterXfer bus) n
      ((s.setMem (s.mem.write16 (currentDesc s b + 6) (BitVec.ofNat 16 (k + 1)))).goto (afterRx s b m k)) := by
  rw [runExec_xfer hl hb, xferStep, State.goto_currentDesc, memWrite16_of_allows (s := s.goto _) ha, State.goto_mem,
    State.setMem_goto, State.setMem_goto_goto hl, andThen_next, State.goto_afterRx, State.setMem_afterRx]

/-- A byte of caller memory is fetched (R162). -/
theorem xferStep_txFetch (ha : allows s.plat (m.data.toNat + k) 1 = true) :
    xferStep b m (.txFetch k) s = .next (s.goto (.xfer m (.txData k (s.mem.read (m.data.toNat + k))))) := by
  rw [xferStep, memRead8_of_allows ha]

/-- The byte goes to DR (R73, R162). -/
theorem runExec_txData (hl : s.cur < s.ctxs.length) (hb : i2cBusOf s.plat bus = some b) (v : Byte) (n : Nat) :
    runExec (.i2cMasterXfer bus) (n + 1) (s.goto (.xfer m (.txData k v))) = runExec (.i2cMasterXfer bus) n
      ((s.writeI2cDr b v).goto (.xfer m (.txCount k))) := by
  rw [runExec_xfer hl hb, xferStep, State.writeI2cDr, State.goto_i2cAt, State.setI2c_goto,
    State.setI2c_goto_goto hl, andThen_next, State.writeI2cDr]

/-- The byte is counted in `xferred` (R162). -/
theorem runExec_txCount (hl : s.cur < s.ctxs.length) (hb : i2cBusOf s.plat bus = some b)
    (ha : allows s.plat (currentDesc s b + 6) 2 = true) (n : Nat) :
    runExec (.i2cMasterXfer bus) (n + 1) (s.goto (.xfer m (.txCount k))) = runExec (.i2cMasterXfer bus) n
      ((s.setMem (s.mem.write16 (currentDesc s b + 6) (BitVec.ofNat 16 (k + 1)))).goto (afterTx m k)) := by
  rw [runExec_xfer hl hb, xferStep, State.goto_currentDesc, memWrite16_of_allows (s := s.goto _) ha, State.goto_mem,
    State.setMem_goto, State.setMem_goto_goto hl, andThen_next]

/-- A read of DR after a read of SR1 (R73). -/
theorem I2cBus.readDr_of_armed {x : I2cBus} (h : x.armed1 = true) :
    x.readDr.2 = { x with sr1 := clearBit (clearBit x.sr1 i2cRXNE) i2cBTF, armed1 := false } := by
  simp [I2cBus.readDr, h]

/-- A byte of a read message from DR to its count, where `x` is what the wait and the ACK clear have made of the bus
(R161). -/
theorem runExec_rxByte (hl : s.cur < s.ctxs.length) (hb : i2cBusOf s.plat bus = some b) {x : I2cBus}
    (hx : x.dev = (s.i2cAt b).dev) (harm : x.armed1 = true)
    (hdata : allows s.plat (m.data.toNat + k) 1 = true) (hcount : allows s.plat (currentDesc s b + 6) 2 = true) :
    runExec (.i2cMasterXfer bus) 3 ((s.setI2c b x).goto (.xfer m (.rxData k))) =
      .next (((s.setI2c b { x with sr1 := clearBit (clearBit x.sr1 i2cRXNE) i2cBTF, armed1 := false }).setMem
        ((s.mem.write (m.data.toNat + k) x.drValue).write16 (currentDesc s b + 6) (BitVec.ofNat 16 (k + 1)))).goto
          (afterRx s b m k)) := by
  generalize hy : ({ x with sr1 := clearBit (clearBit x.sr1 i2cRXNE) i2cBTF, armed1 := false } : I2cBus) = y
  have hread : x.readDr.2 = y := (I2cBus.readDr_of_armed harm).trans hy
  have hcursor (n : Memory) : ((s.setI2c b y).setMem n).cursorAt b = s.cursorAt b := by
    simp [State.cursorAt, ← hy, hx]
  rw [runExec_rxData (s := s.setI2c b x) hl hb, State.i2cAt_setI2c, State.setI2c_setI2c, hread,
    runExec_rxStore (s := s.setI2c b y) hl hb hdata,
    runExec_rxCount (s := (s.setI2c b y).setMem _) hl hb (by rw [currentDesc_congr (hcursor _)]; exact hcount),
    runExec_zero, currentDesc_congr (hcursor _), afterRx_congr (hcursor _)]
  rfl

end Message

/-- Settles O44: the micro-steps of a byte composed, with the ACK clear before them for the last byte but one. -/
theorem xferMovesAByte : Obligations.XferMovesAByte := by
  unfold Obligations.XferMovesAByte
  intro s bus b m k hb hdata hcount
  refine ⟨fun hs hf hrxne => ?_, fun hs => ?_⟩
  · have hexec := exec_i2cMasterXfer_xfer hb hs.pos
    rw [xferStep_wait_flag (hasFault_eq_false.2 hf) rfl, if_pos hrxne, afterWait] at hexec
    refine ⟨_, hexec, ?_⟩
    by_cases hlast : k + 2 = m.len
    · rw [if_pos hlast, if_pos hlast, if_pos hlast, runExec_ackOff (s := s.armedSr1 b) hs.here hb,
        State.armedSr1_i2cAt, State.armedSr1, State.setI2c_setI2c]
      exact runExec_rxByte (x := { s.i2cAt b with
        cr1 := clearBit (s.i2cAt b).cr1 i2cACK &&& i2cCr1Mask, armed1 := true }) hs.here hb rfl rfl hdata hcount
    · rw [if_neg hlast, if_neg hlast, if_neg hlast]
      exact runExec_rxByte (x := { s.i2cAt b with armed1 := true }) hs.here hb rfl rfl hdata hcount
  · refine ⟨_, (exec_i2cMasterXfer_xfer hb hs.pos).trans (xferStep_txFetch hdata), ?_⟩
    have hcursor : (s.writeI2cDr b (s.mem.read (m.data.toNat + k))).cursorAt b = s.cursorAt b := by
      simp [State.cursorAt, State.writeI2cDr, I2cBus.writeDr]
    rw [runExec_txData hs.here hb, runExec_txCount (s := s.writeI2cDr b _) hs.here hb
      (by rw [currentDesc_congr hcursor]; exact hcount), runExec_zero, currentDesc_congr hcursor]
    simp [State.writeI2cDr, I2cBus.writeDr, afterTx]

end Sys2Proof.Machine

namespace Sys2Proof.Machine

/-! # Caller memory (R63, R64, R67) -/

/-- An admitted write keeps the canonical form. -/
theorem MemAccess.wf {p : Platform} {m n : Memory} (h : MemAccess p m n) (hm : m.wf = true) : n.wf = true := by
  cases h with
  | byte => exact Memory.wf_write hm
  | half => exact Memory.wf_write16 hm

/-- A micro-step of a command keeps memory canonical: all it does there is admitted writes. -/
theorem ExecEffect.mem_wf {s t : State} (he : ExecEffect s t) (h : s.mem.wf = true) : t.mem.wf = true :=
  kept_of_reflTransGen (P := fun m => m.wf = true) (fun _ _ => MemAccess.wf) he.mem h

/-- Of the agents' steps only a command's micro-step and a caller's store write caller memory. -/
theorem AgentEffect.mem_wf {s t : State} (he : AgentEffect s t) (h : s.mem.wf = true) : t.mem.wf = true := by
  cases he with
  | command i t _ _ _ _ hexec => exact (exec_effect hexec).mem_wf h
  | store => exact Memory.wf_write h
  | idle | illegal | issue | readRes | port | spiStart | spiComplete | i2c | time => exact h

/-- Settles O54: every write of caller memory, a command's or a caller's, keeps the canonical form. -/
theorem stepKeepsMemoryCanonical : Obligations.StepKeepsMemoryCanonical := by
  unfold Obligations.StepKeepsMemoryCanonical
  intro s t h hstep
  obtain ⟨u, hu, rfl⟩ := step_effect hstep
  exact hu.mem_wf h

/-- A half is its two bytes, the upper one first. -/
theorem half_append_extract (v : Half) : v.extractLsb' 8 8 ++ v.extractLsb' 0 8 = v := by
  rw [BitVec.extractLsb'_append_extractLsb'_eq_extractLsb' (by decide), BitVec.extractLsb'_eq_self]

theorem Memory.read_write16_low {m : Memory} {a : Nat} {v : Half} (h : m.wf = true) :
    (m.write16 a v).read a = v.extractLsb' 0 8 := by
  rw [Memory.write16, Memory.read_write_other _ _ (by omega), Memory.read_write_same h]

theorem Memory.read_write16_high {m : Memory} {a : Nat} {v : Half} (h : m.wf = true) :
    (m.write16 a v).read (a + 1) = v.extractLsb' 8 8 :=
  Memory.read_write_same (Memory.wf_write h)

theorem Memory.read_write16_other (m : Memory) {a c : Nat} (v : Half) (hlow : c ≠ a) (hhigh : c ≠ a + 1) :
    (m.write16 a v).read c = m.read c := by
  rw [Memory.write16, Memory.read_write_other _ _ hhigh, Memory.read_write_other _ _ hlow]

/-- Settles O51: the two byte writes of a half touch distinct addresses. -/
theorem halfWritesAreLittleEndian : Obligations.HalfWritesAreLittleEndian := by
  unfold Obligations.HalfWritesAreLittleEndian
  intro m a v h
  refine ⟨Memory.read_write16_low h, Memory.read_write16_high h, ?_, fun c => Memory.read_write16_other m v⟩
  rw [Memory.read16, Memory.read_write16_high h, Memory.read_write16_low h, half_append_extract]

/-! ## Refused accesses (R62, R67, R215) -/

/-- An access that meets the block of a bus that exists. -/
theorem inRegisterBlock_of_mem {p : Platform} {a n : Nat} {base : Word} (hb : base ∈ blockBases p)
    (hlow : a < base.toNat + 0x24) (hhigh : base.toNat < a + n) : inRegisterBlock p a n = true := by
  have hmeets : meetsBlock p base a n = true := by
    rw [meetsBlock, Bool.and_eq_true, decide_eq_true_eq, decide_eq_true_eq, blockSize]
    exact ⟨by omega, hhigh⟩
  exact List.any_eq_true.2 ⟨base, hb, hmeets⟩

theorem allows_of_wrap {p : Platform} {a n : Nat} (h : 2 ^ 32 < a + n) : allows p a n = false := by
  rw [allows, decide_eq_false (Nat.not_le.2 h), Bool.false_and, Bool.false_and]

theorem allows_of_inRegisterBlock {p : Platform} {a n : Nat} (h : inRegisterBlock p a n = true) :
    allows p a n = false := by
  simp [allows, h]

theorem allows_of_not_admitted {p : Platform} {a n : Nat}
    (h : ∀ r ∈ p.admitted, r.width ≠ n ∨ a < r.base ∨ r.base + r.size < a + n) : allows p a n = false := by
  have hno : platformAllows p a n = false := by
    refine List.any_eq_false.2 fun r hr => ?_
    have := h r hr
    simp only [Bool.and_eq_true, beq_iff_eq, decide_eq_true_eq]
    omega
  simp [allows, hno]

/-- A refused access is no step (R67, R215). -/
theorem memAccess_of_refused {a n : Nat} {s : State} {k : Result} (h : allows s.plat a n = false) :
    memAccess a n s k = .next s := by
  simp [memAccess, h]

section Micro

variable {s : State} {bus : BitVec 4} {b : BusId}

/-- A micro-step inside the byte loop of SPI.READ (R127). -/
theorem exec_spiRead_reading {p : ReadPos} (hb : spiBusOf s.plat bus = some b) (hp : s.me.pos = .reading p) :
    exec (.spiRead bus) s = spiReadStep b s.me.issued.arg0 s.me.issued.arg1 p s := by
  simp [exec, execSpiRead, hb, hp]

/-- A micro-step inside the hand-off loop of SPI.WRITE (R129, R130). -/
theorem exec_spiWrite_writing {p : WritePos} (hb : spiBusOf s.plat bus = some b) (hp : s.me.pos = .writing p) :
    exec (.spiWrite bus) s = spiWriteStep b s.me.issued.arg0 s.me.issued.arg1 p s := by
  simp [exec, execSpiWrite, hb, hp]

/-- A micro-step of the message load of I2C.MASTER_XFER (R157). -/
theorem exec_i2cMasterXfer_load {p : LoadPos} (hb : i2cBusOf s.plat bus = some b) (hp : s.me.pos = .xferLoad p) :
    exec (.i2cMasterXfer bus) s = xferLoadStep b p s := by
  simp [exec, execI2cMasterXfer, hb, hp]

end Micro

/-- Settles O52: the three grounds of a refusal, and every access goes through `memAccess`. -/
theorem refusedAccessIsStuck : Obligations.RefusedAccessIsStuck := by
  unfold Obligations.RefusedAccessIsStuck
  refine ⟨fun p a n => allows_of_wrap, fun p b a n _ hblock => ?_, fun p a n => allows_of_not_admitted,
    fun s bus b k v hb hs hno => ?_, fun s bus b txed t hb hs hno => ?_,
    fun s bus b p v d a n hb hs hv hd hacc hno => ?_, fun s a v rest hctx hs hprog hno => ?_⟩
  · rcases hblock with ⟨hvalid, hlow, hhigh⟩ | ⟨hvalid, hlow, hhigh⟩
    · exact allows_of_inRegisterBlock (inRegisterBlock_of_mem (mem_blockBases.2 (.inl ⟨b, hvalid, rfl⟩)) hlow hhigh)
    · exact allows_of_inRegisterBlock (inRegisterBlock_of_mem (mem_blockBases.2 (.inr ⟨b, hvalid, rfl⟩)) hlow hhigh)
  · exact (exec_spiRead_reading hb hs.pos).trans (memAccess_of_refused hno)
  · exact (exec_spiWrite_writing hb hs.pos).trans (memAccess_of_refused hno)
  · subst hv hd
    cases p with
    | xferEntry q =>
      have hexec := exec_i2cMasterXfer_entry hb hs.pos
      cases q with
      | checkAddr | checkFlags | checkLen =>
        obtain ⟨rfl, rfl⟩ := hacc
        exact hexec.trans (memAccess_of_refused hno)
      | _ => exact hacc.elim
    | xferLoad q =>
      have hexec := exec_i2cMasterXfer_load hb hs.pos
      cases q with
      | addr | flags | len | data | clear =>
        obtain ⟨rfl, rfl⟩ := hacc
        exact hexec.trans (memAccess_of_refused hno)
      | index => exact hacc.elim
    | xfer m q =>
      have hexec := exec_i2cMasterXfer_xfer hb hs.pos
      cases q with
      | rxStore | txFetch | rxCount | txCount =>
        obtain ⟨rfl, rfl⟩ := hacc
        exact hexec.trans (memAccess_of_refused hno)
      | _ => exact hacc.elim
    | _ => exact hacc.elim
  · have hstuck : callerStep s = .next s := by
      rw [callerStep, hprog]
      exact memAccess_of_refused hno
    rw [step_of_caller hctx hs, hstuck, andThen_next]

/-! # What a command cannot reach (R76, R77, R137, R223) -/

/-- The blocks at two bases have no address in common. -/
def blockApart (p : Platform) (x y : Word) : Prop :=
  x.toNat + blockSize p ≤ y.toNat ∨ y.toNat + blockSize p ≤ x.toNat

theorem blockApart.symm {p : Platform} {x y : Word} (h : blockApart p x y) : blockApart p y x := Or.symm h

/-- Blocks that are apart share no address. -/
theorem blockApart.not_both {p : Platform} {x y : Word} (h : blockApart p x y) {a : Nat} {inBlock : Word → Prop}
    (hin : ∀ base, inBlock base ↔ base.toNat ≤ a ∧ a < base.toNat + blockSize p) : ¬(inBlock x ∧ inBlock y) := by
  rw [hin, hin]
  unfold blockApart at h
  omega

theorem mem_busIds (b : BusId) : b ∈ [BusId.b1, .b2, .b3] := by cases b <;> simp

/-- Of the buses of a family that exist, distinct ones have blocks apart where the bases are pairwise so. -/
theorem blockApart_of_pairwise {p : Platform} {valid : BusId → Bool} {bases : Bank Word}
    (h : ((([.b1, .b2, .b3] : List BusId).filter valid).map bases.get).Pairwise (blockApart p)) {d e : BusId}
    (hne : d ≠ e) (hd : valid d = true) (he : valid e = true) : blockApart p (bases.get d) (bases.get e) := by
  rw [List.pairwise_map, List.pairwise_filter] at h
  have : Std.Symm fun d e => valid d = true → valid e = true → blockApart p (bases.get d) (bases.get e) :=
    ⟨fun _ _ hr he hd => (hr hd he).symm⟩
  exact h.forall (mem_busIds d) (mem_busIds e) hne hd he

/-- What `blocksApart` says, by buses (R76). -/
theorem blocksApart_spec {p : Platform} (h : blocksApart p = true) :
    (∀ d e, d ≠ e → spiValid p d = true → spiValid p e = true → blockApart p (p.spiBase.get d) (p.spiBase.get e)) ∧
    (∀ d e, d ≠ e → i2cValid p d = true → i2cValid p e = true → blockApart p (p.i2cBase.get d) (p.i2cBase.get e)) ∧
    (∀ d e, spiValid p d = true → i2cValid p e = true → blockApart p (p.spiBase.get d) (p.i2cBase.get e)) := by
  have hall : (blockBases p).Pairwise (blockApart p) := by
    simp only [blocksApart, decide_eq_true_eq] at h
    exact h
  obtain ⟨hspi, hi2c, hcross⟩ := List.pairwise_append.1 hall
  refine ⟨fun d e => blockApart_of_pairwise hspi, fun d e => blockApart_of_pairwise hi2c, fun d e hd he => ?_⟩
  exact hcross _ (List.mem_map_of_mem (List.mem_filter.2 ⟨mem_busIds d, hd⟩)) _
    (List.mem_map_of_mem (List.mem_filter.2 ⟨mem_busIds e, he⟩))

section Reach

variable {i : Instr} {inst : InstId} {s t : State}

/-- No command has a micro-step between two commands. -/
theorem exec_of_ready (hinst : instOf s.plat i = some inst) (hp : s.me.pos = .ready) :
    exec i s = .fault .lostPosition := by
  cases hs : i.isSpi with
  | true =>
    obtain ⟨b, -, hb⟩ := spiBusOf_of_instOf hs hinst
    cases i with
    | spiBegin | spiBeginSlave | spiEnd | spiRead | spiWrite | spiTransfer | spiBaudCalc =>
      simp only [Instr.bus] at hb
      simp only [exec, execSpiBegin, execSpiBeginSlave, execSpiEnd, execSpiRead, execSpiWrite, execSpiTransfer,
        execSpiBaudCalc, hb, hp]
    | _ => cases hs
  | false =>
    obtain ⟨b, -, hb⟩ := i2cBusOf_of_instOf hs hinst
    cases i with
    | i2cInit | i2cMasterEnable | i2cMasterXfer | i2cBusReset | i2cTimingCalc =>
      simp only [Instr.bus] at hb
      simp only [exec, execI2cInit, execI2cMasterEnable, execI2cMasterXfer, execI2cBusReset, execI2cTimingCalc, hb,
        hp]
    | _ => cases hs

/-- A micro-step of a command reaches no bus but the one it names, whatever context runs it. -/
theorem exec_sameInst (h : exec i s = .next t) {e : InstId} (he : instOf s.plat i ≠ some e) : SameInst s t e := by
  rcases Nat.lt_or_ge s.cur s.ctxs.length with hl | hl
  · rcases exec_next hl h with ⟨-, rfl⟩ | ⟨inst, hinst, hm⟩
    · exact .setMe ..
    · exact hm.others e fun heq => he (heq ▸ hinst)
  · have hready : s.me.pos = .ready := congrArg Ctx.pos (State.ctxAt_of_length_le hl)
    cases hinst : instOf s.plat i with
    | none =>
      rw [exec_of_instOf_none hinst] at h
      exact Host.Outcome.next.inj h ▸ .setMe ..
    | some inst =>
      rw [exec_of_ready hinst hready] at h
      cases h

/-- The bus a command names is one of its own family (R92 step 3). -/
theorem instOf_eq_spi {p : Platform} {b : BusId} :
    instOf p i = some (.spi b) ↔ i.isSpi = true ∧ spiBusOf p i.bus = some b := by
  cases hs : i.isSpi <;> simp [instOf, hs]

theorem instOf_eq_i2c {p : Platform} {b : BusId} :
    instOf p i = some (.i2c b) ↔ i.isSpi = false ∧ i2cBusOf p i.bus = some b := by
  cases hs : i.isSpi <;> simp [instOf, hs]

/-- A calculator's value or error is written into the running context. -/
theorem calcResult_setMe {r : Except ErrorKind Word} (h : calcResult r s = .next t) : ∃ m, t = s.setMe m := by
  cases r with
  | error e => exact ⟨_, (Host.Outcome.next.inj h).symm⟩
  | ok v =>
    refine ⟨{ (s.setRes v).me with pos := .ret }, (Host.Outcome.next.inj h).symm.trans ?_⟩
    rw [State.goto, State.setRes, State.setMe_setMe]

/-- A calculator changes nothing but the running context (R110). -/
theorem exec_calculator_setMe (ha : i.accesses = false) (h : exec i s = .next t) : ∃ m, t = s.setMe m := by
  cases i with
  | spiBaudCalc bus tier =>
    unfold exec execSpiBaudCalc at h
    dsimp only at h
    split at h
    · exact ⟨_, (Host.Outcome.next.inj h).symm⟩
    · split at h
      · exact calcResult_setMe h
      · exact ⟨_, (Host.Outcome.next.inj h).symm⟩
      · cases h
  | i2cTimingCalc bus flags =>
    unfold exec execI2cTimingCalc at h
    dsimp only at h
    split at h
    · exact ⟨_, (Host.Outcome.next.inj h).symm⟩
    · split at h
      · exact calcResult_setMe h
      · exact ⟨_, (Host.Outcome.next.inj h).symm⟩
      · cases h
  | _ => cases ha

end Reach

/-- Settles O59: the bases pairwise, and a command's micro-step by the buses it cannot reach. -/
theorem commandsAreIndependent : Obligations.CommandsAreIndependent := by
  unfold Obligations.CommandsAreIndependent
  refine ⟨fun p a d e inBlock hapart hin => ?_, fun i s t h => ⟨fun hs => ⟨?_, fun d hd => ?_⟩,
    fun hs => ⟨?_, fun d hd => ?_⟩, fun ha => ?_⟩⟩
  · obtain ⟨hspi, hi2c, hcross⟩ := blocksApart_spec hapart
    exact ⟨fun hne hd he => (hspi d e hne hd he).not_both hin, fun hne hd he => (hi2c d e hne hd he).not_both hin,
      fun hd he => (hcross d e hd he).not_both hin⟩
  · refine Bank.ext_get fun b => exec_sameInst (e := .i2c b) h fun he => ?_
    exact nomatch hs.symm.trans (instOf_eq_i2c.1 he).1
  · exact exec_sameInst (e := .spi d) h fun he => hd (instOf_eq_spi.1 he).2
  · refine Bank.ext_get fun b => exec_sameInst (e := .spi b) h fun he => ?_
    exact nomatch hs.symm.trans (instOf_eq_spi.1 he).1
  · exact exec_sameInst (e := .i2c d) h fun he => hd (instOf_eq_i2c.1 he).2
  · obtain ⟨m, rfl⟩ := exec_calculator_setMe ha h
    exact ⟨rfl, rfl, rfl, rfl⟩

/-! # Power-on meets the invariants (R76, R233) -/

@[simp] theorem holdsAt_ready (i : Instr) : holdsAt i .ready = false := by cases i <;> rfl

theorem SpiBus.ok_reset : SpiBus.reset.ok = true := by decide

theorem I2cBus.ok_reset (b : BusId) : (I2cBus.reset b).ok = true := by cases b <;> rfl

theorem State.busesOk_reset : State.reset.busesOk := fun b => by
  rw [State.reset_spiAt, State.reset_i2cAt]
  exact ⟨SpiBus.ok_reset, I2cBus.ok_reset b⟩

/-- At power-on every context is between two commands, where nothing is held. -/
theorem State.controlOk_reset : State.reset.controlOk := fun c _ => by
  rw [State.ctxOk_iff, State.reset_ctxAt]
  refine ⟨rfl, fun i inst _ hheld => ?_⟩
  obtain ⟨hh, -⟩ := heldAt_eq_some.1 hheld
  cases (holdsAt_ready i).symm.trans hh

/-- At power-on every device is Disabled. -/
theorem State.busyOk_reset : State.reset.busyOk := fun b hbusy => by
  rw [State.reset_i2cAt] at hbusy
  cases hbusy

/-- The blocks at the bases of R78 are apart, whichever of the third buses exist. -/
theorem blocksApart_powerOnPlatform : blocksApart powerOnPlatform = true := by
  unfold powerOnPlatform
  split
  · assumption
  · obtain ⟨highDensity, i2c3Present, -, -, -, admitted⟩ := Config.platform
    cases highDensity <;> cases i2c3Present <;> rfl

/-- Settles O53: each invariant of the state `reset` names. -/
theorem powerOnMeetsTheInvariants : Obligations.PowerOnMeetsTheInvariants := by
  unfold Obligations.PowerOnMeetsTheInvariants
  exact ⟨rfl, State.busesOk_reset, State.controlOk_reset, State.busyOk_reset, blocksApart_powerOnPlatform⟩

/-! # Runs of the SPI commands (R72, R124, R129, R130, R134) -/

/-! ## Status and data reads (R72) -/

theorem clearBit_of_testBit {v : Word} {i : Nat} (h : testBit v i = false) : clearBit v i = v := by
  refine eq_of_testBit_eq fun j _ => ?_
  rw [testBit_clearBit]
  by_cases hj : i = j
  · subst hj; rw [h, Bool.false_and]
  · rw [decide_eq_true hj, Bool.and_true]

theorem clearBit_comm (v : Word) (i j : Nat) : clearBit (clearBit v i) j = clearBit (clearBit v j) i := by
  refine eq_of_testBit_eq fun k _ => ?_
  rw [testBit_clearBit, testBit_clearBit, testBit_clearBit, testBit_clearBit, Bool.and_right_comm]

/-- A status read clears at most OVR. -/
theorem SpiBus.testBit_readSr (x : SpiBus) {j : Nat} (hj : spiOVR ≠ j) :
    testBit x.readSr.2.sr j = testBit x.sr j := by
  unfold SpiBus.readSr
  dsimp only
  split
  · rw [testBit_clearBit, decide_eq_true hj, Bool.and_true]
  · rfl

theorem SpiBus.readSr_txe (x : SpiBus) : x.readSr.2.txe = x.txe := x.testBit_readSr (by decide)

theorem SpiBus.readSr_shActive (x : SpiBus) : x.readSr.2.shActive = x.shActive := x.testBit_readSr (by decide)

theorem SpiBus.readSr_rxne (x : SpiBus) : x.readSr.2.rxne = x.rxne := x.testBit_readSr (by decide)

/-- A data read clears RXNE and no other flag. -/
theorem SpiBus.testBit_readDr (x : SpiBus) (j : Nat) :
    testBit x.readDr.2.sr j = (testBit x.sr j && decide (spiRXNE ≠ j)) := testBit_clearBit ..

theorem SpiBus.readDr_txe (x : SpiBus) : x.readDr.2.txe = x.txe := (x.testBit_readDr _).trans (Bool.and_true _)

theorem SpiBus.readDr_shActive (x : SpiBus) : x.readDr.2.shActive = x.shActive :=
  (x.testBit_readDr _).trans (Bool.and_true _)

theorem SpiBus.readDr_rxne (x : SpiBus) : x.readDr.2.rxne = false := (x.testBit_readDr _).trans (Bool.and_false _)

/-- After another status read a status read changes nothing. -/
theorem SpiBus.readSr_of_disarmed {x : SpiBus} (h : x.armedDR = false) : x.readSr.2 = x := by
  cases x
  simp_all [SpiBus.readSr]

/-- After a read of DR a status read clears OVR. -/
theorem SpiBus.readSr_of_armed {x : SpiBus} (h : x.armedDR = true) :
    x.readSr.2 = { x with sr := clearBit x.sr spiOVR, armedDR := false } := by
  unfold SpiBus.readSr
  cases ho : x.ovr
  · simp [clearBit_of_testBit (show testBit x.sr spiOVR = false from ho)]
  · simp [h]

/-- Whether a status read has cleared OVR does not matter where OVR is cleared afterwards. -/
theorem SpiBus.clearBit_readSr (x : SpiBus) : clearBit x.readSr.2.sr spiOVR = clearBit x.sr spiOVR := by
  refine eq_of_testBit_eq fun j _ => ?_
  rw [testBit_clearBit, testBit_clearBit]
  by_cases hj : spiOVR = j
  · rw [decide_eq_false (not_not.2 hj), Bool.and_false, Bool.and_false]
  · rw [x.testBit_readSr hj]

/-! ## The state inside an SPI command -/

/-- `s` inside an SPI command: at position `p`, with SPI bus b replaced. -/
def State.inSpi (s : State) (b : BusId) (x : SpiBus) (p : Pos) : State := (s.setSpi b x).goto p

section Run

variable {i : Instr} {s : State} {bus : BitVec 4} {b : BusId} {x y : SpiBus} {p : Pos}

/-- A command that has not moved yet. -/
theorem State.setSpi_eq_inSpi (hp : s.me.pos = p) : s.setSpi b x = s.inSpi b x p :=
  (State.goto_self (s := s.setSpi b x) hp).symm

theorem State.inSpi_self (hp : s.me.pos = p) : s.inSpi b (s.spiAt b) p = s := by
  rw [← State.setSpi_eq_inSpi hp, State.setSpi_spiAt]

@[simp] theorem State.inSpi_spiAt : (s.inSpi b x p).spiAt b = x := by simp [State.inSpi]

theorem State.inSpi_me (hl : s.cur < s.ctxs.length) : (s.inSpi b x p).me = { s.me with pos := p } :=
  State.me_goto (s := s.setSpi b x) hl p

theorem State.inSpi_setSpi : (s.inSpi b x p).setSpi b y = s.inSpi b y p := by
  rw [State.inSpi, State.goto, State.setSpi_setMe, State.setSpi_setSpi]
  rfl

theorem State.inSpi_goto (hl : s.cur < s.ctxs.length) (q : Pos) : (s.inSpi b x p).goto q = s.inSpi b x q :=
  State.goto_goto (s := s.setSpi b x) hl p q

theorem spiPoll_inSpi (k : Word → State → Result) :
    spiPoll b (s.inSpi b x p) k = k x.sr (s.inSpi b x.readSr.2 p) := by
  rw [spiPoll, State.inSpi_spiAt, State.inSpi_setSpi]
  rfl

theorem spiTake_inSpi (k : Byte → State → Result) :
    spiTake b (s.inSpi b x p) k = k x.rxbuf (s.inSpi b x.readDr.2 p) := by
  rw [spiTake, State.inSpi_spiAt, State.inSpi_setSpi]
  simp [SpiBus.readDr]

/-- The return micro-step of every SPI command that holds its bus (R26, R27). -/
theorem exec_spi_ret (hs : i.isSpi = true) (ha : i.accesses = true) (hb : spiBusOf s.plat i.bus = some b)
    (hp : s.me.pos = .ret) : exec i s = finishSpi b s := by
  cases i with
  | spiBegin | spiBeginSlave | spiEnd | spiRead | spiWrite | spiTransfer =>
    simp only [Instr.bus] at hb
    simp only [exec, execSpiBegin, execSpiBeginSlave, execSpiEnd, execSpiRead, execSpiWrite, execSpiTransfer, hb, hp]
  | spiBaudCalc => cases ha
  | _ => cases hs

theorem finishSpi_inSpi (hl : s.cur < s.ctxs.length) :
    finishSpi b (s.inSpi b x p) = .next (s.setSpi b { x with inflight := none }).completed := by
  rw [finishSpi, State.inSpi_spiAt, State.inSpi_setSpi, State.returned, State.inSpi_me hl, State.inSpi, State.goto,
    State.setMe_setMe]
  rfl

/-- The return, last in a run. -/
theorem runExec_inSpi_ret (hl : s.cur < s.ctxs.length) (hs : i.isSpi = true) (ha : i.accesses = true)
    (hb : spiBusOf s.plat i.bus = some b) :
    runExec i 1 (s.inSpi b x .ret) = .next (s.setSpi b { x with inflight := none }).completed := by
  have hpos : (s.inSpi b x .ret).me.pos = .ret := by rw [State.inSpi_me hl]
  rw [runExec_succ, exec_spi_ret (s := s.inSpi b x .ret) hs ha hb hpos, finishSpi_inSpi hl, andThen_next, runExec_zero]

/-! ## SPI.END (R124) -/

/-- A micro-step of SPI.END after its CR1 read. -/
theorem exec_spiEnd_ending {p : EndPos} (hb : spiBusOf s.plat bus = some b) (hp : s.me.pos = .ending p) :
    exec (.spiEnd bus) s = spiEndStep b p s := by
  simp [exec, execSpiEnd, hb, hp]

/-- The next micro-step of a run inside SPI.END. -/
theorem runExec_ending (hl : s.cur < s.ctxs.length) (hb : spiBusOf s.plat bus = some b) (p : EndPos) (n : Nat) :
    runExec (.spiEnd bus) (n + 1) (s.inSpi b x (.ending p)) =
      andThen (spiEndStep b p (s.inSpi b x (.ending p))) (runExec (.spiEnd bus) n) := by
  have hpos : (s.inSpi b x (.ending p)).me.pos = .ending p := by rw [State.inSpi_me hl]
  rw [runExec_succ, exec_spiEnd_ending (s := s.inSpi b x (.ending p)) hb hpos]

/-- SPI.END claims an enabled bus and goes on to the drain. -/
theorem exec_spiEnd_start (hs : RunsAt s .start) (hb : spiBusOf s.plat bus = some b)
    (hfree : (s.spiAt b).inflight = none) (hon : (s.spiAt b).spe = true) :
    exec (.spiEnd bus) s =
      .next (s.inSpi b { s.spiAt b with inflight := some s.cur } (.ending .drain)) := by
  have hspe : (s.setSpi b { s.spiAt b with inflight := some s.cur }).spiAt b |>.spe := by
    rw [State.spiAt_setSpi]; exact hon
  simp only [exec, execSpiEnd, hb, hs.pos, acquireSpi_free _ hfree, hspe, if_true]
  rfl

theorem runExec_drain (hl : s.cur < s.ctxs.length) (hb : spiBusOf s.plat bus = some b) (n : Nat) :
    runExec (.spiEnd bus) (n + 1) (s.inSpi b x (.ending .drain)) =
      runExec (.spiEnd bus) n (s.inSpi b x.readSr.2 (.ending (if x.rxne then .discard else .waitTxe))) := by
  rw [runExec_ending hl hb, spiEndStep, spiPoll_inSpi, State.inSpi_goto hl, andThen_next]
  rfl

theorem runExec_discard (hl : s.cur < s.ctxs.length) (hb : spiBusOf s.plat bus = some b) (n : Nat) :
    runExec (.spiEnd bus) (n + 1) (s.inSpi b x (.ending .discard)) =
      runExec (.spiEnd bus) n (s.inSpi b x.readDr.2 (.ending .drain)) := by
  rw [runExec_ending hl hb, spiEndStep, spiTake_inSpi, State.inSpi_goto hl, andThen_next]

/-- A bus that has drained, with nothing to send and nothing in flight. -/
structure SpiBus.Settled (x : SpiBus) : Prop where
  disarmed : x.armedDR = false
  unsent   : x.txe = true
  idle     : x.shActive = false

/-- After the drain both waits see their condition at once, SPE is cleared, and the command returns. -/
theorem runExec_disable (hl : s.cur < s.ctxs.length) (hb : spiBusOf s.plat bus = some b) (hx : x.Settled) :
    runExec (.spiEnd bus) 4 (s.inSpi b x (.ending .waitTxe)) =
      .next (s.setSpi b { x with cr1 := clearBit x.cr1 spiSPE &&& spiCr1Mask, inflight := none }).completed := by
  have htxe : testBit x.sr spiTXE = true := hx.unsent
  have hbsy : testBit x.sr spiBSY = false := hx.idle
  have hgo (v : Word) : x.disablesBusy v = false := by simp [SpiBus.disablesBusy, hx.unsent, hx.idle]
  rw [runExec_ending hl hb, spiEndStep, spiPoll_inSpi, SpiBus.readSr_of_disarmed hx.disarmed, htxe, if_pos rfl,
    State.inSpi_goto hl, andThen_next]
  rw [runExec_ending hl hb, spiEndStep, spiPoll_inSpi, SpiBus.readSr_of_disarmed hx.disarmed, hbsy,
    if_neg Bool.false_ne_true, State.inSpi_goto hl, andThen_next]
  rw [runExec_ending hl hb, spiEndStep, spiWriteCr1, State.inSpi_spiAt, hgo, if_neg Bool.false_ne_true,
    State.inSpi_setSpi, State.inSpi_goto hl, andThen_next]
  exact runExec_inSpi_ret hl rfl rfl hb

/-- A bus with nothing to send and nothing in flight has drained after a status read. -/
theorem SpiBus.settled_readSr (htxe : x.txe = true) (hidle : x.shActive = false) : x.readSr.2.Settled where
  disarmed := rfl
  unsent := by rw [SpiBus.readSr_txe, htxe]
  idle := by rw [SpiBus.readSr_shActive, hidle]

end Run

/-- Settles O22: the drain once, or twice around the read of the byte, and then the disable. -/
theorem spiEndDrainsAndDisables : Obligations.SpiEndDrainsAndDisables := by
  unfold Obligations.SpiEndDrainsAndDisables
  intro s bus b hs hb hfree hon htxe hidle
  have hstart := exec_spiEnd_start hs hb hfree hon
  generalize hy : ({ s.spiAt b with inflight := some s.cur } : SpiBus) = y at hstart
  have hytxe : y.txe = true := by rw [← hy]; exact htxe
  have hyidle : y.shActive = false := by rw [← hy]; exact hidle
  have hyrxne : y.rxne = (s.spiAt b).rxne := by rw [← hy]; rfl
  refine ⟨fun hempty => ⟨_, hstart, ?_⟩, fun hfull => ⟨_, hstart, ?_⟩⟩
  · rw [runExec_drain hs.here hb, hyrxne, hempty, if_neg Bool.false_ne_true,
      runExec_disable hs.here hb (SpiBus.settled_readSr hytxe hyidle), ← hy]
    simp only [hfree]
    rfl
  · have htxe' : y.readSr.2.readDr.2.txe = true := by rw [SpiBus.readDr_txe, SpiBus.readSr_txe, hytxe]
    have hidle' : y.readSr.2.readDr.2.shActive = false := by
      rw [SpiBus.readDr_shActive, SpiBus.readSr_shActive, hyidle]
    have hsr : clearBit y.readSr.2.readDr.2.sr spiOVR = clearBit (clearBit y.sr spiRXNE) spiOVR := by
      rw [SpiBus.readDr, clearBit_comm, SpiBus.clearBit_readSr, clearBit_comm]
    rw [runExec_drain hs.here hb, hyrxne, hfull, if_pos rfl, runExec_discard hs.here hb, runExec_drain hs.here hb,
      SpiBus.readDr_rxne, if_neg Bool.false_ne_true, runExec_disable hs.here hb (SpiBus.settled_readSr htxe' hidle'),
      SpiBus.readSr_of_armed rfl, hsr, ← hy]
    simp only [hfree]
    rfl

/-! ## SPI.WRITE (R129, R130, R136) -/

/-- A byte written to DR is in the transmit buffer, with TXE cleared (R72). -/
theorem SpiBus.writeDr_byte (x : SpiBus) (v : Byte) :
    x.writeDr (v.setWidth 32) = { x with txbuf := v, sr := clearBit x.sr spiTXE } := by
  simp [SpiBus.writeDr]

theorem SpiBus.writeDr_rxne (x : SpiBus) (v : Word) : (x.writeDr v).rxne = x.rxne :=
  (testBit_clearBit ..).trans (Bool.and_true _)

section Write

variable {s : State} {bus : BitVec 4} {b : BusId} {x : SpiBus} {p : Pos} {buf len : Word} {txed t : Nat}

/-- A status read that sees TXE = 1 with a byte left goes on to fetch the byte. -/
theorem spiWriteStep_status_send (hl : s.cur < s.ctxs.length) (htxe : x.txe = true) (hleft : t < len.toNat - txed) :
    spiWriteStep b buf len (.status txed t) (s.inSpi b x p) =
      .next (s.inSpi b x.readSr.2 (.writing (.fetch txed t))) := by
  have hgo : (!testBit x.sr spiTXE || decide (len.toNat - txed ≤ t)) = false := by
    rw [show testBit x.sr spiTXE = true from htxe, decide_eq_false (Nat.not_le.2 hleft)]
    rfl
  rw [spiWriteStep, spiPoll_inSpi, hgo, if_neg Bool.false_ne_true, State.inSpi_goto hl]

/-- A status read that sees TXE = 0, or no byte left, ends the hand-off call. -/
theorem spiWriteStep_status_done (hl : s.cur < s.ctxs.length) (h : x.txe = false ∨ len.toNat - txed ≤ t) :
    spiWriteStep b buf len (.status txed t) (s.inSpi b x p) =
      .next (s.inSpi b x.readSr.2 (spiWriteNext txed t len.toNat)) := by
  have hend : (!testBit x.sr spiTXE || decide (len.toNat - txed ≤ t)) = true := by
    rw [Bool.or_eq_true, Bool.not_eq_true', decide_eq_true_eq]
    exact h
  rw [spiWriteStep, spiPoll_inSpi, hend, if_pos rfl, State.inSpi_goto hl]

/-- SPI.WRITE of at least one byte claims the bus and reads the status. -/
theorem exec_spiWrite_start (hs : RunsAt s .start) (hb : spiBusOf s.plat bus = some b)
    (hfree : (s.spiAt b).inflight = none) (hlen : s.me.issued.arg1 ≠ 0) :
    exec (.spiWrite bus) s = spiWriteStep b s.me.issued.arg0 s.me.issued.arg1 (.status 0 0)
      (s.inSpi b { s.spiAt b with inflight := some s.cur } .start) := by
  rw [← State.setSpi_eq_inSpi hs.pos]
  simp only [exec, execSpiWrite, hb, hs.pos, acquireSpi_free _ hfree, State.setSpi_me, hlen, if_false]

/-- The next micro-step of a run inside the hand-off loop. -/
theorem runExec_writing (hl : s.cur < s.ctxs.length) (hb : spiBusOf s.plat bus = some b) (p : WritePos) (n : Nat) :
    runExec (.spiWrite bus) (n + 1) (s.inSpi b x (.writing p)) =
      andThen (spiWriteStep b s.me.issued.arg0 s.me.issued.arg1 p (s.inSpi b x (.writing p)))
        (runExec (.spiWrite bus) n) := by
  have hme : (s.inSpi b x (.writing p)).me = { s.me with pos := .writing p } := State.inSpi_me hl
  rw [runExec_succ, exec_spiWrite_writing (s := s.inSpi b x (.writing p)) hb (by rw [hme]), hme]

/-- The byte is fetched and handed off. -/
theorem runExec_handOff (hl : s.cur < s.ctxs.length) (hb : spiBusOf s.plat bus = some b)
    (ha : allows s.plat (s.me.issued.arg0.toNat + txed + t) 1 = true) (n : Nat) :
    runExec (.spiWrite bus) (n + 1 + 1) (s.inSpi b x (.writing (.fetch txed t))) =
      runExec (.spiWrite bus) n (s.inSpi b { x with
        txbuf := s.mem.read (s.me.issued.arg0.toNat + txed + t), sr := clearBit x.sr spiTXE }
          (.writing (.status txed (t + 1)))) := by
  rw [runExec_writing hl hb, spiWriteStep, memRead8_of_allows (s := s.inSpi b x _) ha, State.inSpi_goto hl,
    andThen_next, runExec_writing hl hb, spiWriteStep, State.inSpi_spiAt, State.inSpi_setSpi, State.inSpi_goto hl,
    andThen_next]
  rw [SpiBus.writeDr_byte]
  rfl

end Write

/-- Settles O27: the status read decides, and what it sends is fetched and handed off. -/
theorem spiWriteHandsOffTheByte : Obligations.SpiWriteHandsOffTheByte := by
  unfold Obligations.SpiWriteHandsOffTheByte
  intro s bus b sr hb hsr
  have hread : (s.spiAt b).readSr.2 = { s.spiAt b with sr := sr, armedDR := false } := by rw [hsr]; rfl
  refine ⟨fun txed t hs htxe hleft ha => ?_, fun txed t hs hend => ?_, fun hs hfree hone htxe ha => ?_⟩
  · have hsend := spiWriteStep_status_send (b := b) (buf := s.me.issued.arg0) (p := s.me.pos) hs.here htxe hleft
    rw [State.inSpi_self rfl] at hsend
    refine ⟨_, (exec_spiWrite_writing hb hs.pos).trans hsend, (runExec_handOff hs.here hb ha 0).trans ?_⟩
    rw [runExec_zero, hread]
    rfl
  · have hdone := spiWriteStep_status_done (b := b) (buf := s.me.issued.arg0) (p := s.me.pos) hs.here hend
    rw [State.inSpi_self rfl] at hdone
    rw [exec_spiWrite_writing hb hs.pos, hdone, hread]
    rfl
  · have hlen : s.me.issued.arg1 ≠ 0 := by rw [hone]; decide
    have hstart := exec_spiWrite_start hs hb hfree hlen
    generalize hy : ({ s.spiAt b with inflight := some s.cur } : SpiBus) = y at hstart
    have hytxe : y.txe = true := by rw [← hy]; exact htxe
    have hleft : 0 < s.me.issued.arg1.toNat - 0 := by rw [hone]; decide
    refine ⟨_, hstart.trans (spiWriteStep_status_send hs.here hytxe hleft), (runExec_handOff hs.here hb ha 2).trans ?_⟩
    have hend : s.me.issued.arg1.toNat - 0 ≤ 0 + 1 := by rw [hone]; decide
    have hnext : spiWriteNext 0 (0 + 1) (1 : Word).toNat = .ret := rfl
    rw [runExec_writing hs.here hb, spiWriteStep_status_done hs.here (.inr hend), SpiBus.readSr_of_disarmed rfl,
      andThen_next, hone, hnext]
    refine (runExec_inSpi_ret (i := .spiWrite bus) hs.here rfl rfl hb).trans ?_
    rw [← hy, hsr]
    simp only [hfree]
    rfl

/-! ## SPI.TRANSFER (R133 to R135) -/

section Transfer

variable {s : State} {bus : BitVec 4} {byte : BitVec 8} {b : BusId} {x : SpiBus} {p : Pos}

/-- A micro-step inside SPI.TRANSFER. -/
theorem exec_spiTransfer_transfer {p : TransferPos} (hb : spiBusOf s.plat bus = some b)
    (hp : s.me.pos = .transfer p) : exec (.spiTransfer bus byte) s = spiTransferStep b byte p s := by
  simp [exec, execSpiTransfer, hb, hp]

/-- SPI.TRANSFER claims the bus and, where TXE is seen at once, goes on to the hand-off. -/
theorem exec_spiTransfer_start (hs : RunsAt s .start) (hb : spiBusOf s.plat bus = some b)
    (hfree : (s.spiAt b).inflight = none) (htxe : (s.spiAt b).txe = true) :
    exec (.spiTransfer bus byte) s =
      .next (s.inSpi b { (s.spiAt b).readSr.2 with inflight := some s.cur } (.transfer .write)) := by
  have hpoll := spiPoll_inSpi (s := s) (b := b) (x := { s.spiAt b with inflight := some s.cur }) (p := .start)
    fun v s => .next (s.goto (.transfer (if testBit v spiTXE then .write else .status)))
  rw [← State.setSpi_eq_inSpi hs.pos, show testBit (s.spiAt b).sr spiTXE = true from htxe, if_pos rfl,
    State.inSpi_goto hs.here] at hpoll
  simp only [exec, execSpiTransfer, hb, hs.pos, acquireSpi_free _ hfree, spiTransferStep]
  exact hpoll

/-- The next micro-step of a run inside SPI.TRANSFER. -/
theorem runExec_transfer (hl : s.cur < s.ctxs.length) (hb : spiBusOf s.plat bus = some b) (p : TransferPos) (n : Nat) :
    runExec (.spiTransfer bus byte) (n + 1) (s.inSpi b x (.transfer p)) =
      andThen (spiTransferStep b byte p (s.inSpi b x (.transfer p))) (runExec (.spiTransfer bus byte) n) := by
  have hpos : (s.inSpi b x (.transfer p)).me.pos = .transfer p := by rw [State.inSpi_me hl]
  rw [runExec_succ, exec_spiTransfer_transfer (s := s.inSpi b x (.transfer p)) hb hpos]

/-- The byte of the command word is handed off, and the closing status read changes nothing more. -/
theorem runExec_transfer_write (hl : s.cur < s.ctxs.length) (hb : spiBusOf s.plat bus = some b)
    (harm : x.armedDR = false) (n : Nat) :
    runExec (.spiTransfer bus byte) (n + 1 + 1) (s.inSpi b x (.transfer .write)) =
      runExec (.spiTransfer bus byte) n (s.inSpi b (x.writeDr (byte.setWidth 32)) (.transfer .wait)) := by
  have hkeep : (x.writeDr (byte.setWidth 32)).armedDR = false := harm
  rw [runExec_transfer hl hb, spiTransferStep, State.inSpi_spiAt, State.inSpi_setSpi, State.inSpi_goto hl, andThen_next,
    runExec_transfer hl hb, spiTransferStep, spiPoll_inSpi, State.inSpi_goto hl, andThen_next,
    SpiBus.readSr_of_disarmed hkeep]

/-- With a byte received the wait for RXNE ends at once, and the byte is read. -/
theorem runExec_transfer_take (hl : s.cur < s.ctxs.length) (hb : spiBusOf s.plat bus = some b)
    (harm : x.armedDR = false) (hrxne : x.rxne = true) (n : Nat) :
    runExec (.spiTransfer bus byte) (n + 1 + 1) (s.inSpi b x (.transfer .wait)) =
      runExec (.spiTransfer bus byte) n (s.inSpi b x.readDr.2 (.transfer (.result x.rxbuf))) := by
  rw [runExec_transfer hl hb, spiTransferStep, spiPoll_inSpi, show testBit x.sr spiRXNE = true from hrxne, if_pos rfl,
    State.inSpi_goto hl, andThen_next, SpiBus.readSr_of_disarmed harm, runExec_transfer hl hb, spiTransferStep,
    spiTake_inSpi, State.inSpi_goto hl, andThen_next]

/-- RES takes the byte, and the command returns. -/
theorem runExec_transfer_result (hl : s.cur < s.ctxs.length) (hb : spiBusOf s.plat bus = some b) (r : Byte) :
    runExec (.spiTransfer bus byte) 2 (s.inSpi b x (.transfer (.result r))) =
      .next ((s.setSpi b { x with inflight := none }).completedWith (r.setWidth 32)) := by
  have hres : ((s.inSpi b x (.transfer (.result r))).setRes (r.setWidth 32)).goto .ret =
      (s.setRes (r.setWidth 32)).inSpi b x .ret := by
    rw [State.setRes_goto (s := s.inSpi b x _) (by simpa [State.inSpi] using hl), State.inSpi_me hl]
    simp only [State.inSpi, State.goto, State.setRes, State.setSpi_me, State.setSpi_setMe,
      State.setMe_setMe, State.me_setMe (s := s.setSpi b x) hl]
  rw [runExec_transfer hl hb, spiTransferStep, hres, andThen_next]
  exact runExec_inSpi_ret (s := s.setRes _) (by simpa using hl) rfl rfl hb

end Transfer

/-- Settles O28: the wait for RXNE sees the older byte. -/
theorem spiTransferReturnsTheStaleByte : Obligations.SpiTransferReturnsTheStaleByte := by
  unfold Obligations.SpiTransferReturnsTheStaleByte
  intro s bus byte b sr hs hb hsr hfree htxe hrxne
  have hstart := exec_spiTransfer_start (byte := byte) hs hb hfree htxe
  generalize hy : ({ (s.spiAt b).readSr.2 with inflight := some s.cur } : SpiBus) = y at hstart
  have harm : y.armedDR = false := by rw [← hy]; rfl
  have hstill : (y.writeDr (byte.setWidth 32)).armedDR = false := harm
  have hfull : (y.writeDr (byte.setWidth 32)).rxne = true := by
    rw [SpiBus.writeDr_rxne, ← hy]
    exact (SpiBus.readSr_rxne _).trans hrxne
  refine ⟨_, hstart, (runExec_transfer_write hs.here hb harm 4).trans ?_⟩
  refine (runExec_transfer_take hs.here hb hstill hfull 2).trans ?_
  rw [runExec_transfer_result hs.here hb, SpiBus.writeDr_byte, ← hy, hsr]
  simp only [hfree]
  rfl

/-! # SPI.TRANSFER with its frame (R133, R134, R184, R186) -/

theorem spiValid_of_spiBusOf {p : Platform} {f : BitVec 4} {b : BusId} (h : spiBusOf p f = some b) :
    spiValid p b = true := by
  unfold spiBusOf at h
  split at h
  · cases h
  · split at h
    · cases h; assumption
    · cases h

/-- A frame start of a bus that exists and is enabled to start. -/
theorem step_of_spiStart {s : State} {b : BusId} (ha : s.turn.agent = .spiStart b) (hv : spiValid s.plat b = true)
    (hen : (s.spiAt b).startEnabled = true) :
    step s = .next (s.setSpi b ((s.spiAt b).startFrame s.turn.byte)).advance := by
  simp [step, agentStep, ha, spiStartStep, hv, hen]

/-- A frame completion of a bus that exists and has a frame in flight. -/
theorem step_of_spiComplete {s : State} {b : BusId} (ha : s.turn.agent = .spiComplete b)
    (hv : spiValid s.plat b = true) (hen : (s.spiAt b).completeEnabled = true) :
    step s = .next ((s.setSpi b ((s.spiAt b).receive s.turn.byte).afterFrame).emit
      ((s.spiAt b).frame b s.turn.byte)).advance := by
  simp [step, agentStep, ha, spiCompleteStep, hv, hen]

/-- `s` after `n` turns, of which the choices `ts` remain: context c is m, SPI bus b is x, and the records es are
appended. -/
def State.afterTurns (s : State) (c : Nat) (b : BusId) (x : SpiBus) (m : Ctx) (es : List BusEvent) (ts : List Turn)
    (n : Nat) : State :=
  { s with ctxs := s.ctxs.set c m, spi := s.spi.put b x, events := s.events ++ es, env := ts, seq := s.seq + n }

section Turns

variable {s : State} {c : Nat} {b : BusId} {x y : SpiBus} {m : Ctx} {es : List BusEvent} {ts : List Turn} {n : Nat}

theorem State.afterTurns_spiAt : (s.afterTurns c b x m es ts n).spiAt b = x := Bank.get_put_same ..

theorem State.afterTurns_setSpi :
    (s.afterTurns c b x m es ts n).setSpi b y = s.afterTurns c b y m es ts n := by
  simp [State.afterTurns, State.setSpi]

theorem State.afterTurns_emit (e : BusEvent) :
    (s.afterTurns c b x m es ts n).emit e = s.afterTurns c b x m (es ++ [e]) ts n := by
  simp [State.afterTurns, State.emit, State.emitAll]

/-- A turn is used up. -/
theorem State.afterTurns_advance (t : Turn) :
    (s.afterTurns c b x m es (t :: ts) n).advance = s.afterTurns c b x m es ts (n + 1) := rfl

/-- In context c's turn context c runs. -/
theorem State.afterTurns_me (hl : c < s.ctxs.length) (bit : Bool) :
    (s.afterTurns c b x m es (.ofCtx c bit :: ts) n).me = m := by
  have hcur : (s.afterTurns c b x m es (.ofCtx c bit :: ts) n).cur = c := rfl
  rw [State.me, hcur]
  simp [State.ctxAt, State.afterTurns, hl]

theorem State.afterTurns_setMe (bit : Bool) (m' : Ctx) :
    (s.afterTurns c b x m es (.ofCtx c bit :: ts) n).setMe m' = s.afterTurns c b x m' es (.ofCtx c bit :: ts) n := by
  have hcur : (s.afterTurns c b x m es (.ofCtx c bit :: ts) n).cur = c := rfl
  rw [State.setMe, hcur]
  simp [State.setCtx, State.afterTurns]

/-- A turn of context c is the micro-step of its command. -/
theorem steps_ofCtx {i : Instr} {m' : Ctx} (hl : c < s.ctxs.length) (hf : m.fault = none) (hp : m.pos ≠ .ready)
    (hi : decode m.issued.cmd = .ok i)
    (hexec : exec i (s.afterTurns c b x m es (.ofCtx c :: ts) n) =
      .next (s.afterTurns c b y m' es (.ofCtx c :: ts) n)) (k : Nat) :
    steps (k + 1) (s.afterTurns c b x m es (.ofCtx c :: ts) n) = steps k (s.afterTurns c b y m' es ts (n + 1)) := by
  have hme : (s.afterTurns c b x m es (.ofCtx c :: ts) n).me = m := State.afterTurns_me hl true
  have hhere : c < (s.afterTurns c b x m es (.ofCtx c :: ts) n).ctxs.length := by simpa [State.afterTurns] using hl
  have hstep := step_of_command (s := s.afterTurns c b x m es (.ofCtx c :: ts) n) rfl hhere
    (by rw [hme, hf]) (by rw [hme]; exact hp) (by rw [hme, hi])
  rw [steps_succ, hstep, hexec, andThen_next, andThen_next, State.afterTurns_advance]

/-- A turn of the SPI peripheral that starts a frame. -/
theorem steps_spiStart (hv : spiValid s.plat b = true) (hen : x.startEnabled = true) (draw : Byte) (k : Nat) :
    steps (k + 1) (s.afterTurns c b x m es (.ofAgent (.spiStart b) draw :: ts) n) =
      steps k (s.afterTurns c b (x.startFrame draw) m es ts (n + 1)) := by
  rw [steps_succ, step_of_spiStart (s := s.afterTurns c b x m es (_ :: ts) n) rfl hv
    (by rw [State.afterTurns_spiAt, hen]), State.afterTurns_spiAt, State.afterTurns_setSpi, andThen_next]
  rfl

/-- A turn of the SPI peripheral that completes a frame. -/
theorem steps_spiComplete (hv : spiValid s.plat b = true) (hen : x.completeEnabled = true) (rx : Byte) (k : Nat) :
    steps (k + 1) (s.afterTurns c b x m es (.ofAgent (.spiComplete b) rx :: ts) n) =
      steps k (s.afterTurns c b (x.receive rx).afterFrame m (es ++ [x.frame b rx]) ts (n + 1)) := by
  rw [steps_succ, step_of_spiComplete (s := s.afterTurns c b x m es (_ :: ts) n) rfl hv
    (by rw [State.afterTurns_spiAt, hen]), State.afterTurns_spiAt, State.afterTurns_setSpi, State.afterTurns_emit,
    andThen_next]
  rfl

/-- Context c runs SPI.TRANSFER on bus b; `m` is its context up to the position. -/
structure Exchanges (s : State) (c : Nat) (b : BusId) (bus : BitVec 4) (byte : Byte) (m : Ctx) : Prop where
  here    : c < s.ctxs.length
  live    : m.fault = none
  command : decode m.issued.cmd = .ok (.spiTransfer bus byte)
  names   : spiBusOf s.plat bus = some b

variable {bus : BitVec 4} {byte : Byte}

theorem Exchanges.goto (h : Exchanges s c b bus byte m) (q : Pos) : Exchanges s c b bus byte { m with pos := q } :=
  ⟨h.here, h.live, h.command, h.names⟩

theorem Exchanges.setRes (h : Exchanges s c b bus byte m) (v : Word) :
    Exchanges s c b bus byte { m with res := v, resWritten := true } :=
  ⟨h.here, h.live, h.command, h.names⟩

/-- A turn inside SPI.TRANSFER. -/
theorem steps_transfer (h : Exchanges s c b bus byte m) {p : TransferPos} (hp : m.pos = .transfer p) {m' : Ctx}
    (hstep : spiTransferStep b byte p (s.afterTurns c b x m es (.ofCtx c :: ts) n) =
      .next (s.afterTurns c b y m' es (.ofCtx c :: ts) n)) (k : Nat) :
    steps (k + 1) (s.afterTurns c b x m es (.ofCtx c :: ts) n) = steps k (s.afterTurns c b y m' es ts (n + 1)) := by
  refine steps_ofCtx h.here h.live (by rw [hp]; exact Pos.noConfusion) h.command ?_ k
  rw [← hstep]
  exact exec_spiTransfer_transfer (s := s.afterTurns c b x m es (.ofCtx c :: ts) n) h.names
    (by rw [State.afterTurns_me h.here, hp])

/-- The running context moves on. -/
theorem State.afterTurns_goto (hl : c < s.ctxs.length) (q : Pos) :
    (s.afterTurns c b x m es (.ofCtx c :: ts) n).goto q =
      s.afterTurns c b x { m with pos := q } es (.ofCtx c :: ts) n := by
  rw [State.goto, State.afterTurns_me hl, State.afterTurns_setMe]

theorem spiPoll_afterTurns (f : Word → State → Result) : spiPoll b (s.afterTurns c b x m es ts n) f =
    f x.sr (s.afterTurns c b x.readSr.2 m es ts n) := by
  rw [spiPoll, State.afterTurns_spiAt, State.afterTurns_setSpi]
  rfl

theorem steps_transfer_write (h : Exchanges s c b bus byte m) (hp : m.pos = .transfer .write) (k : Nat) :
    steps (k + 1) (s.afterTurns c b x m es (.ofCtx c :: ts) n) =
      steps k (s.afterTurns c b (x.writeDr (byte.setWidth 32)) { m with pos := .transfer .close } es ts (n + 1)) := by
  refine steps_transfer h hp ?_ k
  rw [spiTransferStep, State.afterTurns_spiAt, State.afterTurns_setSpi, State.afterTurns_goto h.here]

theorem steps_transfer_close (h : Exchanges s c b bus byte m) (hp : m.pos = .transfer .close)
    (harm : x.armedDR = false) (k : Nat) :
    steps (k + 1) (s.afterTurns c b x m es (.ofCtx c :: ts) n) =
      steps k (s.afterTurns c b x { m with pos := .transfer .wait } es ts (n + 1)) := by
  refine steps_transfer h hp ?_ k
  rw [spiTransferStep, spiPoll_afterTurns, State.afterTurns_goto h.here, SpiBus.readSr_of_disarmed harm]

theorem steps_transfer_wait (h : Exchanges s c b bus byte m) (hp : m.pos = .transfer .wait)
    (harm : x.armedDR = false) (hrxne : x.rxne = true) (k : Nat) :
    steps (k + 1) (s.afterTurns c b x m es (.ofCtx c :: ts) n) =
      steps k (s.afterTurns c b x { m with pos := .transfer .data } es ts (n + 1)) := by
  refine steps_transfer h hp ?_ k
  rw [spiTransferStep, spiPoll_afterTurns, show testBit x.sr spiRXNE = true from hrxne, if_pos rfl,
    State.afterTurns_goto h.here, SpiBus.readSr_of_disarmed harm]

theorem steps_transfer_data (h : Exchanges s c b bus byte m) (hp : m.pos = .transfer .data) (k : Nat) :
    steps (k + 1) (s.afterTurns c b x m es (.ofCtx c :: ts) n) =
      steps k (s.afterTurns c b x.readDr.2 { m with pos := .transfer (.result x.rxbuf) } es ts (n + 1)) := by
  have hbyte : x.readDr.1.setWidth 8 = x.rxbuf := by simp [SpiBus.readDr]
  refine steps_transfer h hp ?_ k
  rw [spiTransferStep, spiTake, State.afterTurns_spiAt, State.afterTurns_setSpi, State.afterTurns_goto h.here, hbyte]

theorem steps_transfer_result (h : Exchanges s c b bus byte m) {r : Byte} (hp : m.pos = .transfer (.result r))
    (k : Nat) : steps (k + 1) (s.afterTurns c b x m es (.ofCtx c :: ts) n) = steps k (s.afterTurns c b x
      { m with res := r.setWidth 32, resWritten := true, pos := .ret } es ts (n + 1)) := by
  refine steps_transfer h hp ?_ k
  rw [spiTransferStep, State.setRes, State.afterTurns_me h.here, State.afterTurns_setMe, State.afterTurns_goto h.here]

theorem steps_transfer_ret (h : Exchanges s c b bus byte m) (hp : m.pos = .ret) (k : Nat) :
    steps (k + 1) (s.afterTurns c b x m es (.ofCtx c :: ts) n) = steps k (s.afterTurns c b
      { x with inflight := none } { m with pos := .ready, cc := m.cc + 1 } es ts (n + 1)) := by
  refine steps_ofCtx h.here h.live (by rw [hp]; exact Pos.noConfusion) h.command ?_ k
  rw [exec_spi_ret (s := s.afterTurns c b x m es (.ofCtx c :: ts) n) (i := .spiTransfer bus byte) rfl rfl h.names
    (by rw [State.afterTurns_me h.here, hp]), finishSpi, State.afterTurns_spiAt, State.afterTurns_setSpi,
    State.returned, State.afterTurns_me h.here, State.afterTurns_setMe]

/-- The first turn is over. -/
theorem State.inSpi_advance (p : Pos) (hc : s.cur = c) :
    (s.inSpi b x p).advance = s.afterTurns c b x { s.ctxAt c with pos := p } [] s.env.tail 1 := by
  subst hc
  simp [State.inSpi, State.goto, State.setMe, State.setCtx, State.setSpi, State.advance, State.afterTurns, State.me,
    State.cur, State.turn, State.ctxAt]

end Turns

/-- An enabled and idle master with an empty receive buffer. -/
structure SpiBus.IdleMaster (x : SpiBus) : Prop where
  enabled : x.spe = true
  master  : x.mstr = true
  unsent  : x.txe = true
  idle    : x.shActive = false
  empty   : x.rxne = false

section Frame

variable {x : SpiBus}

/-- The byte written to DR waits to be sent. -/
theorem SpiBus.writeDr_txe (x : SpiBus) (v : Word) : (x.writeDr v).txe = false :=
  (testBit_clearBit ..).trans (Bool.and_false _)

theorem SpiBus.writeDr_shActive (x : SpiBus) (v : Word) : (x.writeDr v).shActive = x.shActive :=
  (testBit_clearBit ..).trans (Bool.and_true _)

/-- The frame of the byte written starts (R184). -/
theorem SpiBus.IdleMaster.startEnabled (h : x.IdleMaster) (v : Word) : (x.writeDr v).startEnabled = true := by
  have hspe : (x.writeDr v).spe = true := h.enabled
  simp [SpiBus.startEnabled, hspe, SpiBus.writeDr_shActive, h.idle, SpiBus.writeDr_txe]

/-- `x` with the frame of byte `v` in flight. -/
def SpiBus.sending (x : SpiBus) (v : Byte) : SpiBus := { x with txbuf := v, shTx := v, sr := setBit x.sr spiBSY }

/-- `x` after the frame of byte `v`, which has brought byte `rx`. -/
def SpiBus.exchanged (x : SpiBus) (v rx : Byte) : SpiBus :=
  { x with txbuf := v, shTx := v, rxbuf := rx, sr := setBit x.sr spiRXNE }

theorem setBit_clearBit_of_testBit {v : Word} {i : Nat} (hi : i < 32) (h : testBit v i = true) :
    setBit (clearBit v i) i = v := by
  refine eq_of_testBit_eq fun j _ => ?_
  rw [testBit_setBit _ _ _ hi, testBit_clearBit]
  by_cases hj : i = j
  · subst hj; simp [h]
  · simp [hj]

theorem clearBit_setBit_of_testBit {v : Word} {i : Nat} (hi : i < 32) (h : testBit v i = false) :
    clearBit (setBit v i) i = v := by
  refine eq_of_testBit_eq fun j _ => ?_
  rw [testBit_clearBit, testBit_setBit _ _ _ hi]
  by_cases hj : i = j
  · subst hj; simp [h]
  · simp [hj]

theorem setBit_comm (v : Word) (i j : Nat) : setBit (setBit v i) j = setBit (setBit v j) i := by
  simp only [setBit, BitVec.or_assoc, BitVec.or_comm (bitMask i)]

theorem SpiBus.IdleMaster.startFrame (h : x.IdleMaster) (v draw : Byte) :
    (x.writeDr (v.setWidth 32)).startFrame draw = x.sending v := by
  rw [SpiBus.startFrame, SpiBus.writeDr_txe, SpiBus.writeDr_byte, setBit_clearBit_of_testBit (by decide) h.unsent]
  rfl

theorem SpiBus.sending_txe (x : SpiBus) (v : Byte) : (x.sending v).txe = x.txe :=
  (testBit_setBit _ _ _ (by decide)).trans (Bool.or_false _)

theorem SpiBus.sending_rxne (x : SpiBus) (v : Byte) : (x.sending v).rxne = x.rxne :=
  (testBit_setBit _ _ _ (by decide)).trans (Bool.or_false _)

theorem SpiBus.sending_shActive (x : SpiBus) (v : Byte) : (x.sending v).shActive = true :=
  (testBit_setBit _ _ _ (by decide)).trans (Bool.or_true _)

theorem SpiBus.IdleMaster.completeEnabled (h : x.IdleMaster) (v : Byte) : (x.sending v).completeEnabled = true := by
  rw [SpiBus.completeEnabled, SpiBus.sending_shActive, Bool.and_true]
  exact h.enabled

/-- The byte that comes in finds the receive buffer empty, and no byte waits to follow (R186). -/
theorem SpiBus.IdleMaster.afterFrame (h : x.IdleMaster) (v rx : Byte) :
    ((x.sending v).receive rx).afterFrame = x.exchanged v rx := by
  have hrxne : (x.sending v).rxne = false := by rw [SpiBus.sending_rxne, h.empty]
  have hflags : clearBit (setBit (setBit x.sr spiBSY) spiRXNE) spiBSY = setBit x.sr spiRXNE := by
    rw [setBit_comm]
    refine clearBit_setBit_of_testBit (by decide) ?_
    rw [testBit_setBit _ _ _ (by decide), show testBit x.sr spiBSY = false from h.idle]
    rfl
  have htxe : SpiBus.txe { x.sending v with rxbuf := rx, sr := setBit (x.sending v).sr spiRXNE } = true :=
    (testBit_setBit _ _ _ (by decide)).trans (by rw [Bool.or_eq_true]; exact .inl ((x.sending_txe v).trans h.unsent))
  rw [SpiBus.receive, hrxne, if_neg Bool.false_ne_true, SpiBus.afterFrame, htxe, Bool.not_true, Bool.and_false,
    if_neg Bool.false_ne_true]
  exact congrArg (fun sr => { x with txbuf := v, shTx := v, rxbuf := rx, sr := sr }) hflags

theorem SpiBus.IdleMaster.frame (h : x.IdleMaster) (b : BusId) (v rx : Byte) :
    (x.sending v).frame b rx = .spiFrame b .master v rx x.lsbfirst x.mode := by
  have hrole : (x.sending v).role = .master := if_pos h.master
  rw [SpiBus.frame, hrole]
  rfl

theorem SpiBus.exchanged_rxne (x : SpiBus) (v rx : Byte) : (x.exchanged v rx).rxne = true :=
  (testBit_setBit _ _ _ (by decide)).trans (Bool.or_true _)

/-- The byte that came in is read, and the flags are those of before the frame. -/
theorem SpiBus.IdleMaster.readDr_exchanged (h : x.IdleMaster) (v rx : Byte) :
    (x.exchanged v rx).readDr.2 = { x with txbuf := v, shTx := v, rxbuf := rx, armedDR := true } := by
  rw [SpiBus.readDr, SpiBus.exchanged, clearBit_setBit_of_testBit (by decide) h.empty]

theorem SpiBus.IdleMaster.readSr (h : x.IdleMaster) : x.readSr.2.IdleMaster where
  enabled := h.enabled
  master := h.master
  unsent := by rw [SpiBus.readSr_txe, h.unsent]
  idle := by rw [SpiBus.readSr_shActive, h.idle]
  empty := by rw [SpiBus.readSr_rxne, h.empty]

end Frame

/-- Settles O29: the hand-off, the frame's two steps, and the wait that sees the byte come in, turn by turn. -/
theorem spiTransferExchangesAByte : Obligations.SpiTransferExchangesAByte := by
  unfold Obligations.SpiTransferExchangesAByte
  intro s bus byte rx b c rest sr hsr henv hs hi hb hfree hon hmaster htxe hidle hempty
  have hcur : s.cur = c := by simp [State.cur, State.turn, henv, Turn.ofCtx]
  have hread : ({ (s.spiAt b).readSr.2 with inflight := some s.cur } : SpiBus).IdleMaster :=
    SpiBus.IdleMaster.readSr (x := { s.spiAt b with inflight := some s.cur }) ⟨hon, hmaster, htxe, hidle, hempty⟩
  have hstart := exec_spiTransfer_start (byte := byte) hs hb hfree htxe
  generalize hy : ({ (s.spiAt b).readSr.2 with inflight := some s.cur } : SpiBus) = y at hstart hread
  have harm : y.armedDR = false := by rw [← hy]; rfl
  have hstill : (y.exchanged byte rx).armedDR = false := harm
  have hv := spiValid_of_spiBusOf hb
  have hm : Exchanges s c b bus byte s.me := ⟨hcur ▸ hs.here, hs.live, hi, hb⟩
  have hme : s.me = s.ctxAt c := by rw [State.me, hcur]
  refine ⟨_, hstart, ?_⟩
  rw [State.inSpi_advance _ hcur, ← hme, henv]
  refine Eq.trans (steps_transfer_write (hm.goto _) rfl 7) ?_
  refine Eq.trans (steps_spiStart hv (hread.startEnabled _) 0 6) ?_
  rw [hread.startFrame]
  refine Eq.trans (steps_spiComplete hv (hread.completeEnabled _) rx 5) ?_
  rw [hread.afterFrame, hread.frame]
  refine Eq.trans (steps_transfer_close (hm.goto _) rfl hstill 4) ?_
  refine Eq.trans (steps_transfer_wait (hm.goto _) rfl hstill (y.exchanged_rxne _ _) 3) ?_
  refine Eq.trans (steps_transfer_data (hm.goto _) rfl 2) ?_
  rw [hread.readDr_exchanged]
  refine Eq.trans (steps_transfer_result (hm.goto _) rfl 1) ?_
  refine Eq.trans (steps_transfer_ret ((hm.setRes _).goto _) rfl 0) ?_
  rw [steps_zero, ← hy, hsr, hme]
  simp only [hfree]
  rfl

/-! # Validation of a descriptor (R65, R155) -/

/-- The four checks of a descriptor, as the grounds on which they fail. -/
theorem descOk_iff {addr flags len : Half} : descOk addr flags len = true ↔
    ¬(flags.extractLsb' 2 14 ≠ 0 ∨ (flags.getLsbD 1 = false ∧ 0x80 ≤ addr.toNat) ∨
      (flags.getLsbD 1 = true ∧ 0x400 ≤ addr.toNat) ∨ (flags.getLsbD 0 = true ∧ len = 0)) := by
  unfold descOk flagTen flagRead
  cases flags.getLsbD 1 <;> cases flags.getLsbD 0 <;> simp [and_assoc]

section Validate

variable {s : State} {bus : BitVec 4} {b : BusId} {i : Nat} {addr flags : Half}

theorem memRead16_of_allows {a : Nat} {f : Half → Result} (h : allows s.plat a 2 = true) :
    memRead16 a s f = f (s.mem.read16 a) := memAccess_of_allows h

theorem validateNext_of_ok {count len : Half} (h : descOk addr flags len = true) :
    validateNext i count addr flags len =
      if i + 1 < count.toNat then .xferEntry (.checkAddr (i + 1)) else .xferEntry .msgs := if_pos h

theorem validateNext_of_bad {count len : Half} (h : ¬descOk addr flags len = true) :
    validateNext i count addr flags len = .xferEntry .bad := if_neg h

/-- The next micro-step of a run inside the validation. -/
theorem runExec_goto_entry (hl : s.cur < s.ctxs.length) (hb : i2cBusOf s.plat bus = some b) (p : EntryPos) (n : Nat) :
    runExec (.i2cMasterXfer bus) (n + 1) (s.goto (.xferEntry p)) =
      andThen (xferEntryStep b p (s.goto (.xferEntry p))) (runExec (.i2cMasterXfer bus) n) := by
  have hpos : (s.goto (.xferEntry p)).me.pos = .xferEntry p := by rw [State.me_goto hl]
  rw [runExec_succ, exec_i2cMasterXfer_entry (s := s.goto (.xferEntry p)) hb hpos]

theorem xferEntryStep_checkAddr (ha : allows s.plat (descAddr s.me.issued.arg0 i) 2 = true) :
    xferEntryStep b (.checkAddr i) s =
      .next (s.goto (.xferEntry (.checkFlags i (s.mem.read16 (descAddr s.me.issued.arg0 i))))) := by
  rw [xferEntryStep, memRead16_of_allows ha]

theorem runExec_checkFlags (hl : s.cur < s.ctxs.length) (hb : i2cBusOf s.plat bus = some b)
    (ha : allows s.plat (descAddr s.me.issued.arg0 i + 2) 2 = true) (n : Nat) :
    runExec (.i2cMasterXfer bus) (n + 1) (s.goto (.xferEntry (.checkFlags i addr))) =
      runExec (.i2cMasterXfer bus) n
        (s.goto (.xferEntry (.checkLen i addr (s.mem.read16 (descAddr s.me.issued.arg0 i + 2))))) := by
  rw [runExec_goto_entry hl hb, xferEntryStep, State.me_goto hl, memRead16_of_allows (s := s.goto _) ha,
    State.goto_goto hl, andThen_next, State.goto_mem]

theorem runExec_checkLen (hl : s.cur < s.ctxs.length) (hb : i2cBusOf s.plat bus = some b)
    (ha : allows s.plat (descAddr s.me.issued.arg0 i + 4) 2 = true) (n : Nat) :
    runExec (.i2cMasterXfer bus) (n + 1) (s.goto (.xferEntry (.checkLen i addr flags))) =
      runExec (.i2cMasterXfer bus) n (s.goto (validateNext i (countOf s.me.issued.arg1) addr flags
        (s.mem.read16 (descAddr s.me.issued.arg0 i + 4)))) := by
  rw [runExec_goto_entry hl hb, xferEntryStep, State.me_goto hl, memRead16_of_allows (s := s.goto _) ha,
    State.goto_goto hl, andThen_next, State.goto_mem]

/-- A failed validation halts (R155, R210). -/
theorem runExec_entry_bad (hl : s.cur < s.ctxs.length) (hb : i2cBusOf s.plat bus = some b) :
    runExec (.i2cMasterXfer bus) 1 (s.goto (.xferEntry .bad)) =
      .next ((s.goto (.xferEntry .bad)).halted .badXferArgs) := by
  rw [runExec_goto_entry hl hb, xferEntryStep, raise_eq, andThen_next, runExec_zero]

end Validate

/-- Settles O37: the three reads of the validation composed, and the halt where a check fails. -/
theorem xferValidatesADescriptor : Obligations.XferValidatesADescriptor := by
  unfold Obligations.XferValidatesADescriptor
  intro s bus b i d addr flags len bad hs hb hd haddr hflags hlen eaddr eflags elen hbad
  have hdesc : d = descAddr s.me.issued.arg0 i := hd
  subst hdesc eaddr eflags elen
  have hstart := (exec_i2cMasterXfer_entry hb hs.pos).trans (xferEntryStep_checkAddr haddr)
  have hok := descOk_iff.trans (not_congr hbad.symm)
  refine ⟨fun hgood => ⟨_, hstart, ?_⟩, fun hfail => ⟨_, hstart, ?_⟩⟩
  · rw [runExec_checkFlags hs.here hb hflags, runExec_checkLen hs.here hb hlen, runExec_zero,
      validateNext_of_ok (hok.2 hgood), countOf_eq_extract]
  · rw [runExec_checkFlags hs.here hb hflags, runExec_checkLen hs.here hb hlen,
      validateNext_of_bad fun h => hok.1 h hfail, runExec_entry_bad hs.here hb]

/-! # The start of a message and its address (R158, R159, R163, R164, R196) -/

/-- A concatenation as a number. -/
theorem toNat_append_eq {m n : Nat} (x : BitVec m) (y : BitVec n) : (x ++ y).toNat = x.toNat * 2 ^ n + y.toNat := by
  rw [BitVec.toNat_append, ← Nat.shiftLeft_add_eq_or_of_lt y.isLt, Nat.shiftLeft_eq]

theorem Msg.addr7Byte_toNat (m : Msg) :
    m.addr7Byte.toNat = 2 * (m.addr.toNat % 128) + (if m.rd then 1 else 0) := by
  rw [Msg.addr7Byte, toNat_append_eq, BitVec.extractLsb'_toNat, BitVec.toNat_ofBool, Nat.shiftRight_zero, Nat.mul_comm]
  cases m.rd <;> rfl

/-- The 10-bit header as a number. -/
theorem Msg.headerByte_toNat (m : Msg) (dir : Bool) :
    (m.headerByte dir).toNat = 0xF0 + 2 * (m.addr.toNat / 256 % 4) + dir.toNat := by
  have hfields : (m.headerByte dir).toNat = (0b11110 * 2 ^ 2 + m.addr.toNat >>> 8 % 2 ^ 2) * 2 ^ 1 + dir.toNat := by
    rw [Msg.headerByte, toNat_append_eq, toNat_append_eq, BitVec.extractLsb'_toNat, BitVec.toNat_ofBool]
    rfl
  rw [hfields, Nat.shiftRight_eq_div_pow]
  omega

theorem Msg.lowByte_toNat (m : Msg) : m.lowByte.toNat = m.addr.toNat % 256 := by
  rw [Msg.lowByte, BitVec.extractLsb'_toNat, Nat.shiftRight_zero]

theorem testBit_putBit_other (v : Word) {i j : Nat} (x : Bool) (hi : i < 32) (h : i ≠ j) :
    testBit (putBit v i x) j = testBit v j := by
  cases x
  · exact (testBit_clearBit v i j).trans (by rw [decide_eq_true h, Bool.and_true])
  · exact (testBit_setBit v i j hi).trans (by rw [decide_eq_false h, Bool.or_false])

/-- A read-modify-write of a CR1 bit other than PE disables nothing (R73). -/
theorem I2cBus.writeCr1_putBit (x : I2cBus) {i : Nat} (v : Bool) (hi : i < 32) (hne : i ≠ i2cPE) :
    x.writeCr1 (putBit x.cr1 i v) = { x with cr1 := putBit x.cr1 i v &&& i2cCr1Mask } := by
  rcases x.writeCr1_cases (putBit x.cr1 i v) with ⟨hpe, hoff, -⟩ | ⟨-, e⟩
  · rw [testBit_putBit_other _ _ hi hne, show testBit x.cr1 i2cPE = true from hpe] at hoff
    cases hoff
  · exact e

/-- A byte written to DR after a read of SR1 (R73). -/
theorem I2cBus.writeDr_of_armed {x : I2cBus} (h : x.armed1 = true) (v : Byte) :
    x.writeDr (v.setWidth 32) = { x with
      dr := v.setWidth 32
      sr1 := clearBit (clearBit (clearBit (clearBit x.sr1 i2cSB) i2cADD10) i2cBTF) i2cTXE
      txPending := true
      armed1 := false } := by
  simp [I2cBus.writeDr, h]

/-- A read of SR2, field by field (R60, R73, R196). -/
theorem I2cBus.readSr2_eq (x : I2cBus) : x.readSr2.2 = { x with
    sr1 := if x.armed1 && testBit x.sr1 i2cADDR then
        if x.phase = .addressed ∧ x.dir = .write then setBit (clearBit x.sr1 i2cADDR) i2cTXE
        else clearBit x.sr1 i2cADDR
      else x.sr1
    sr2 := if x.armed1 && testBit x.sr1 i2cADDR && x.phase == .addressed && x.dir == .read then
        clearBit x.sr2 i2cTRA else x.sr2
    phase := if x.armed1 && testBit x.sr1 i2cADDR && x.phase == .addressed then
        if x.dir = .write then .tx else .rx
      else x.phase
    armed1 := false } := by
  rcases x.readSr2_cases with ⟨h, e⟩ | ⟨ha, hf, hp, e⟩ | ⟨ha, hf, hp, hd, e⟩ | ⟨ha, hf, hp, hd, e⟩ <;> rw [e]
  · have hno : (x.armed1 && testBit x.sr1 i2cADDR) = false := by rw [Bool.and_eq_false_iff]; exact h
    simp [hno]
  · simp [ha, hf, hp]
  · simp [ha, hf, hp, hd]
  · simp [ha, hf, hp, hd]

section Start

variable {s : State} {bus : BitVec 4} {b : BusId} {m : Msg}

/-- A micro-step that changes a bit of CR1 other than PE. -/
theorem State.modifyI2cCr1_putBit (s : State) (b : BusId) {i : Nat} (v : Bool) (hi : i < 32) (hne : i ≠ i2cPE) :
    s.modifyI2cCr1 b (putBit (s.i2cAt b).cr1 i v) =
      s.setI2c b { s.i2cAt b with cr1 := putBit (s.i2cAt b).cr1 i v &&& i2cCr1Mask } := by
  rw [State.modifyI2cCr1, I2cBus.writeCr1_putBit _ v hi hne]

theorem State.modifyI2cCr1_start (s : State) (b : BusId) : s.modifyI2cCr1 b (setBit (s.i2cAt b).cr1 i2cSTART) =
    s.setI2c b { s.i2cAt b with cr1 := setBit (s.i2cAt b).cr1 i2cSTART &&& i2cCr1Mask } :=
  s.modifyI2cCr1_putBit b true (by decide) (by decide)

/-- A wait that sees its flag, and the write of DR that follows it (R73, R159, R165). -/
theorem exec_wait_writeDr (hb : i2cBusOf s.plat bus = some b) {w : WaitPt} (hs : RunsAt s (.xfer m (.wait w .sr1)))
    (hf : (s.i2cAt b).sr1 &&& 0x00004F00 = 0) {j : Nat} (hw : w.sr1Bit = some j)
    (hset : testBit (s.i2cAt b).sr1 j = true) {p : XferPos} (hp : afterWait (s.armedSr1 b) b m w = .xfer m p)
    {v : Byte} {q : Pos} (hstep : ∀ t, xferStep b m p t = .next ((t.writeI2cDr b v).goto q)) :
    ∃ u, exec (.i2cMasterXfer bus) s = .next u ∧ runExec (.i2cMasterXfer bus) 1 u =
      .next ((s.setI2c b { s.i2cAt b with
        dr := v.setWidth 32
        sr1 := clearBit (clearBit (clearBit (clearBit (s.i2cAt b).sr1 i2cSB) i2cADD10) i2cBTF) i2cTXE
        txPending := true
        armed1 := false }).goto q) := by
  refine ⟨(s.armedSr1 b).goto (.xfer m p), ?_, ?_⟩
  · rw [exec_i2cMasterXfer_xfer hb hs.pos, xferStep_wait_flag (hasFault_eq_false.2 hf) hw, if_pos hset, hp]
  · rw [runExec_xfer (s := s.armedSr1 b) hs.here hb, hstep, State.writeI2cDr, State.goto_i2cAt, State.armedSr1_i2cAt,
      I2cBus.writeDr_of_armed rfl, State.setI2c_goto, State.goto_goto (s := (s.armedSr1 b).setI2c b _) hs.here,
      State.armedSr1, State.setI2c_setI2c, andThen_next, runExec_zero]

end Start

/-- Settles O40: the byte formats as numbers, and each micro-step by the register access it is. -/
theorem xferStartsTheMessage : Obligations.XferStartsTheMessage := by
  unfold Obligations.XferStartsTheMessage
  refine ⟨fun m => ⟨m.addr7Byte_toNat, m.headerByte_toNat false, ?_, m.lowByte_toNat⟩, fun s bus b m x hb hx => ?_⟩
  · rw [m.headerByte_toNat true, Bool.toNat_true]
    omega
  subst hx
  refine ⟨fun hs => ?_, fun hs => ?_, fun hs hf hsb => ?_, fun hs hf hadd => ?_, fun hs => ?_, fun hs => ?_,
    fun hs hf hsb => ?_, fun hs => ?_⟩
  · rw [exec_i2cMasterXfer_xfer hb hs.pos, xferStep, State.modifyI2cCr1_putBit _ _ _ (by decide) (by decide)]
    simp only [putBit, decide_eq_true_eq]
  · rw [exec_i2cMasterXfer_xfer hb hs.pos, xferStep, State.modifyI2cCr1_start]
  · cases hten : m.ten
    · exact exec_wait_writeDr hb hs hf rfl hsb (by rw [afterWait, hten]) fun _ => rfl
    · exact exec_wait_writeDr hb hs hf rfl hsb (by rw [afterWait, hten]) fun _ => rfl
  · exact exec_wait_writeDr hb hs hf rfl hadd rfl fun _ => rfl
  · rw [exec_i2cMasterXfer_xfer hb hs.pos, xferStep, State.readI2cSr2, I2cBus.readSr2_eq]
  · rw [exec_i2cMasterXfer_xfer hb hs.pos, xferStep, State.modifyI2cCr1_start]
  · exact exec_wait_writeDr hb hs hf rfl hsb rfl fun _ => rfl
  · rw [exec_i2cMasterXfer_xfer hb hs.pos, xferStep, State.readI2cSr2, I2cBus.readSr2_eq]
    rfl

end Sys2Proof.Machine

namespace Sys2Proof

/-! # The fields of a row (R86 to R90, R94) -/

/-- A field is determined by the bits of the word it stands on. -/
theorem extractLsb'_eq_iff {w start n : Nat} {u v : BitVec w} :
    u.extractLsb' start n = v.extractLsb' start n ↔
      ∀ k, start ≤ k → k < start + n → u.getLsbD k = v.getLsbD k := by
  constructor
  · intro h k hlo hhi
    have hbit := congrArg (fun x => x.getLsbD (k - start)) h
    simpa [show k - start < n by omega, Nat.add_sub_cancel' hlo] using hbit
  · exact fun h => BitVec.eq_of_getLsbD_eq fun k hk => by simp [hk, h (start + k) (by omega) (by omega)]

/-- The operand fields of a row, each as its lowest bit and its width (R90). -/
def Opcode.fields : Opcode → List (Nat × Nat)
  | .spiBegin => [(8, 4), (16, 8), (24, 4), (28, 1)]
  | .spiBeginSlave => [(8, 4), (24, 4), (28, 1)]
  | .spiTransfer | .spiBaudCalc => [(8, 4), (16, 8)]
  | .i2cMasterEnable | .i2cTimingCalc => [(8, 4), (16, 4)]
  | .spiEnd | .spiRead | .spiWrite | .i2cInit | .i2cMasterXfer | .i2cBusReset => [(8, 4)]

/-- The reserved fields of a row in R94's words, each as its lowest bit and its width. -/
def Opcode.reserved : Opcode → List (Nat × Nat)
  | .spiBegin => [(12, 4), (29, 3)]
  | .spiBeginSlave => [(12, 4), (29, 3), (16, 8)]
  | .spiTransfer | .spiBaudCalc => [(12, 4), (24, 8)]
  | .i2cMasterEnable | .i2cTimingCalc => [(12, 4), (20, 12)]
  | .spiEnd | .spiRead | .spiWrite | .i2cInit | .i2cMasterXfer | .i2cBusReset => [(12, 4), (12, 20)]

/-- A bit that the mask of a row leaves free is a bit of an operand field. -/
theorem Opcode.exists_field_of_mask (o : Opcode) {k : Nat} (hk : k < 32) (hm : o.mask.getLsbD k = false) :
    ∃ f ∈ o.fields, f.1 ≤ k ∧ k < f.1 + f.2 := by
  cases o <;> revert k <;> decide

/-- Above the OP byte a row fixes the bits of its reserved fields and no others. -/
theorem Opcode.mask_iff_reserved (o : Opcode) {k : Nat} (hlo : 8 ≤ k) (hk : k < 32) :
    o.mask.getLsbD k = true ↔ ∃ f ∈ o.reserved, f.1 ≤ k ∧ k < f.1 + f.2 := by
  cases o <;> revert k <;> decide

/-- Every reserved field lies above the OP byte and inside the word. -/
theorem Opcode.reserved_bounds (o : Opcode) : ∀ f ∈ o.reserved, 8 ≤ f.1 ∧ f.1 + f.2 ≤ 32 := by
  cases o <;> decide

/-! # No bit of a command's word is ignored (R91, R94) -/

/-- What decoding a word to a command says: the row its OP byte names, no reserved bit, and the fields read. -/
theorem decode_eq_ok_iff (w : Word) (i : Instr) : decode w = .ok i ↔
    ∃ o : Opcode, w.extractLsb' 0 8 = o.code ∧ w &&& o.mask = o.matchWord ∧ o.operands w = i := by
  simp only [← Opcode.ofCode_eq_some]
  unfold decode
  cases Opcode.ofCode (w.extractLsb' 0 8) with
  | none => simp
  | some o => by_cases hm : w &&& o.mask = o.matchWord <;> simp [hm]

/-- The command read from a row's fields is of that row. -/
theorem Opcode.row_operands (o : Opcode) (w : Word) : (o.operands w).row = o := by
  cases o <;> rfl

/-- Words from which a row reads the same operands agree on every operand field of the row. -/
theorem Opcode.fields_eq_of_operands_eq {o : Opcode} {v w : Word} (h : o.operands v = o.operands w) :
    ∀ f ∈ o.fields, v.extractLsb' f.1 f.2 = w.extractLsb' f.1 f.2 := by
  cases o <;> simp_all [Opcode.operands, Opcode.fields]

/-- The fixed bits and the operands of a row determine the word. -/
theorem Opcode.word_ext {o : Opcode} {v w : Word} (hmask : v &&& o.mask = w &&& o.mask)
    (hops : o.operands v = o.operands w) : v = w := by
  refine BitVec.eq_of_getLsbD_eq fun k hk => ?_
  cases hm : o.mask.getLsbD k with
  | true => simpa [hm] using congrArg (fun x => x.getLsbD k) hmask
  | false =>
    obtain ⟨f, hf, hlo, hhi⟩ := o.exists_field_of_mask hk hm
    exact extractLsb'_eq_iff.1 (fields_eq_of_operands_eq hops f hf) k hlo hhi

/-- A word that a row matches is the word of the command the row reads from it. -/
theorem Opcode.encode_operands {o : Opcode} {w : Word} (hw : w &&& o.mask = o.matchWord) :
    encode (o.operands w) = w := by
  have hrow := o.row_operands w
  have hmask := encode_and_mask (o.operands w)
  have hops := Instr.operands_encode (o.operands w)
  rw [hrow] at hmask hops
  exact word_ext (hmask.trans hw.symm) hops

/-- A word that decodes is the word of its command. -/
theorem encode_of_decode {w : Word} {i : Instr} (h : decode w = .ok i) : encode i = w := by
  obtain ⟨o, -, hmatch, rfl⟩ := (decode_eq_ok_iff w i).1 h
  exact Opcode.encode_operands hmatch

/-! # The words that are no command (R94) -/

/-- The bits R94 reserves in a word whose OP byte names a row are those of the row's reserved fields. -/
theorem reservedBitSet_eq_false_iff {w : Word} {o : Opcode} (ho : w.extractLsb' 0 8 = o.code) :
    reservedBitSet w = false ↔ ∀ f ∈ o.reserved, w.extractLsb' f.1 f.2 = 0 := by
  unfold reservedBitSet
  rw [ho]
  cases o <;> simp [Opcode.code, Opcode.reserved]

/-- With the OP byte of its row, a word matches the row exactly when every fixed bit above that byte is 0. -/
theorem Opcode.and_mask_eq_matchWord_iff {w : Word} {o : Opcode} (ho : w.extractLsb' 0 8 = o.code) :
    w &&& o.mask = o.matchWord ↔ ∀ k, 8 ≤ k → k < 32 → o.mask.getLsbD k = true → w.getLsbD k = false := by
  have hword : ∀ k, k < 32 → o.matchWord.getLsbD k = (decide (k < 8) && w.getLsbD k) := by
    intro k hk
    simp [Opcode.matchWord, ← ho, hk]
  constructor
  · intro h k hlo hk hm
    have hbit := congrArg (fun x => x.getLsbD k) h
    simpa [hm, hword k hk, Nat.not_lt.2 hlo] using hbit
  · refine fun h => BitVec.eq_of_getLsbD_eq fun k hk => ?_
    rw [BitVec.getLsbD_and, hword k hk]
    by_cases hlo : k < 8
    · simp [hlo, o.mask_op hlo]
    · cases hm : o.mask.getLsbD k with
      | true => simp [h k (Nat.not_lt.1 hlo) hk hm]
      | false => simp [hlo]

/-- A word whose OP byte names a row matches the row exactly when no bit R94 reserves is 1. -/
theorem and_mask_iff_reservedBitSet {w : Word} {o : Opcode} (ho : w.extractLsb' 0 8 = o.code) :
    w &&& o.mask = o.matchWord ↔ reservedBitSet w = false := by
  have hzero (f : Nat × Nat) : w.extractLsb' f.1 f.2 = 0 ↔ ∀ k, f.1 ≤ k → k < f.1 + f.2 → w.getLsbD k = false := by
    simpa using extractLsb'_eq_iff (u := w) (v := 0) (start := f.1) (n := f.2)
  rw [Opcode.and_mask_eq_matchWord_iff ho, reservedBitSet_eq_false_iff ho]
  constructor
  · intro h f hf
    obtain ⟨hlow, hhigh⟩ := o.reserved_bounds f hf
    refine (hzero f).2 fun k hlo hhi => ?_
    have hk : k < 32 := by omega
    exact h k (hlow.trans hlo) hk ((o.mask_iff_reserved (hlow.trans hlo) hk).2 ⟨f, hf, hlo, hhi⟩)
  · intro h k hlow hk hm
    obtain ⟨f, hf, hlo, hhi⟩ := (o.mask_iff_reserved hlow hk).1 hm
    exact (hzero f).1 (h f hf) k hlo hhi

/-- The words that do not decode are exactly R94's. -/
theorem exists_decode_error_iff (w : Word) :
    (∃ e, decode w = .error e) ↔ illegalOp w = true ∨ reservedBitSet w = true := by
  rw [← Opcode.ofCode_eq_none]
  unfold decode
  cases ho : Opcode.ofCode (w.extractLsb' 0 8) with
  | none => simp
  | some o =>
    have hmatch := and_mask_iff_reservedBitSet ((Opcode.ofCode_eq_some _ _).1 ho)
    cases hr : reservedBitSet w <;> simp [hmatch, hr]

end Sys2Proof

namespace Sys2Proof.Machine

/-- A step of a context whose word is no command is the halt IllegalCommand, and the choice is used up (R92, R210). -/
theorem step_of_decode_error {s : State} {e : DecodeError} (ha : s.turn.agent = .ctx) (hs : RunsAt s .start)
    (he : decode s.me.issued.cmd = .error e) : step s = .next (s.halted .illegalCommand).advance := by
  have hcmd : commandStep s = .next (s.halted .illegalCommand) := by simp [commandStep, he, raise_eq]
  have hctx : ctxStep s = .next (s.halted .illegalCommand) := by simp [ctxStep, hs.here, hs.live, hs.pos, hcmd]
  have hagent : agentStep s = .next (s.halted .illegalCommand) := by simp [agentStep, ha, hctx]
  rw [step, hagent, andThen_next]

/-! # The statements about words and commands -/

/-- Settles O2, by the rows: the OP byte of a command's word names its row, and the row's fields give the operands back. -/
theorem decodeOfEncode : Obligations.DecodeOfEncode := by
  unfold Obligations.DecodeOfEncode
  exact decode_encode

/-- Settles O3: every bit of a matched word is fixed by its row or stands in an operand field. -/
theorem encodeOfDecode : Obligations.EncodeOfDecode := by
  unfold Obligations.EncodeOfDecode
  exact fun _ _ => encode_of_decode

/-- Settles O4: the bits a row's mask fixes above the OP byte are the ones R94 reserves. -/
theorem illegalWordsHalt : Obligations.IllegalWordsHalt := by
  unfold Obligations.IllegalWordsHalt
  refine fun w => ⟨exists_decode_error_iff w, fun s ha hs hw hbad => ?_⟩
  obtain ⟨e, he⟩ := (exists_decode_error_iff w).2 hbad
  exact step_of_decode_error ha hs (hw ▸ he)

/-- Settles O10: a BUS field that names no bus of the family leaves the command nothing to run on, at every position. -/
theorem unknownBusHalts : Obligations.UnknownBusHalts := by
  unfold Obligations.UnknownBusHalts
  intro i s h
  refine exec_of_instOf_none ?_
  cases hs : i.isSpi <;> simpa [instOf, hs] using h

/-- Settles O1: each word is evaluated by the decoder. -/
theorem exampleWordsDecode : Obligations.ExampleWordsDecode :=
  ⟨rfl, rfl, rfl, rfl, rfl, rfl, rfl, rfl, rfl, rfl⟩

end Sys2Proof.Machine

namespace Sys2Proof.Machine

/-! # The clock calculators (R102 to R110) -/

/-! ## The SPI baud rate (R102, R103, R105) -/

/-- The extra division step of the fast domain (R102). -/
def extraDivision : Domain → Nat
  | .fast => 1
  | .slow => 0

/-- `SpiBaud` with the parameters as numbers (R102). -/
theorem spiBaud_eq (d : Domain) (tier : BitVec 8) :
    spiBaud d tier = if 8 ≤ tier.toNat then .error .invalidTier
      else if 7 < tier.toNat + extraDivision d then .error .unreachableTier
      else .ok (BitVec.ofNat 3 (tier.toNat + extraDivision d)) := by
  cases d <;> rfl

theorem toNat_of_spiBaud {d : Domain} {tier : BitVec 8} {br : BitVec 3} (h : spiBaud d tier = .ok br) :
    tier.toNat ≤ 7 ∧ br.toNat = tier.toNat + extraDivision d := by
  rw [spiBaud_eq] at h
  split at h
  · cases h
  · split at h
    · cases h
    · cases h
      rw [BitVec.toNat_ofNat]
      omega

/-- The source clock is 18 MHz before the divisions every bus takes (R8). -/
theorem pclkHz_eq (d : Domain) : Config.pclkHz d = 18000000 * 2 ^ (extraDivision d + 1) := by
  cases d <;> rfl

/-- Dividing by 2^k loses nothing for the tiers there are, because 2^7 divides 18 MHz. -/
theorem spiClockHz_of_spiBaud {d : Domain} {tier : BitVec 8} {br : BitVec 3} (h : spiBaud d tier = .ok br) :
    spiClockHz (Config.pclkHz d) br * 2 ^ tier.toNat = 18000000 := by
  obtain ⟨htier, hbr⟩ := toNat_of_spiBaud h
  have hdvd : 2 ^ tier.toNat ∣ 18000000 := (Nat.pow_dvd_pow 2 htier).trans (by norm_num)
  rw [spiClockHz, pclkHz_eq, hbr, Nat.add_assoc, pow_add 2 tier.toNat, Nat.mul_div_mul_right _ _ (by positivity),
    Nat.div_mul_cancel hdvd]

/-! ## The I2C timing at 36 MHz (R107, R109) -/

/-- Every I2C bus is on the slow domain. -/
theorem i2cTiming_eq (b : BusId) (flags : BitVec 4) : i2cTiming b flags = i2cTimingAt 36000000 .ceil flags := by
  cases b <;> rfl

section Timing

variable {flags : BitVec 4}

/-- The standard-mode divisor divides 36 MHz, so the rounding does not enter. -/
theorem i2cTimingAt_standard (hfast : flags.getLsbD 0 = false) (r : Rounding) :
    i2cTimingAt 36000000 r flags = .ok { freq := 36, ccrReg := 0x00B4, trise := 37 } := by
  simp only [i2cTimingAt, hfast, Bool.and_false]
  cases r <;> rfl

/-- Likewise in fast mode with duty 2. -/
theorem i2cTimingAt_fast (hfast : flags.getLsbD 0 = true) (hduty : flags.getLsbD 1 = false) (r : Rounding) :
    i2cTimingAt 36000000 r flags = .ok { freq := 36, ccrReg := 0x801E, trise := 11 } := by
  simp only [i2cTimingAt, hfast, hduty]
  cases r <;> rfl

/-- In fast mode with duty 16/9 the quotient is 3.6, rounded to 4 or to 3. -/
theorem i2cTimingAt_fast_duty (hfast : flags.getLsbD 0 = true) (hduty : flags.getLsbD 1 = true) (r : Rounding) :
    i2cTimingAt 36000000 r flags =
      .ok { freq := 36, ccrReg := if r = .ceil then 0xC004 else 0xC003, trise := 11 } := by
  simp only [i2cTimingAt, hfast, hduty]
  cases r <;> rfl

end Timing

/-! ## The two commands (R104, R108, R110) -/

section Calculator

variable {i : Instr} {s : State} {bus : BitVec 4} {b : BusId}

theorem exec_spiBaudCalc_start {tier : BitVec 8} (hb : spiBusOf s.plat bus = some b) (hp : s.me.pos = .start) :
    exec (.spiBaudCalc bus tier) s =
      calcResult ((spiBaud (Config.spiDomain b) tier).map fun br => br.setWidth 32) s := by
  simp only [exec, execSpiBaudCalc, hb, hp]

theorem exec_i2cTimingCalc_start {flags : BitVec 4} (hb : i2cBusOf s.plat bus = some b) (hp : s.me.pos = .start) :
    exec (.i2cTimingCalc bus flags) s = calcResult ((i2cTiming b flags).map Timing.packed) s := by
  simp only [exec, execI2cTimingCalc, hb, hp]

/-- The return micro-step of a calculator, which holds no bus to release. -/
theorem exec_calculator_ret {inst : InstId} (ha : i.accesses = false) (hi : instOf s.plat i = some inst)
    (hp : s.me.pos = .ret) : exec i s = .next s.returned := by
  cases i with
  | spiBaudCalc bus tier =>
    obtain ⟨b, _, hb⟩ := spiBusOf_of_instOf rfl hi
    simp only [Instr.bus] at hb
    simp only [exec, execSpiBaudCalc, hb, hp]
  | i2cTimingCalc bus flags =>
    obtain ⟨b, _, hb⟩ := i2cBusOf_of_instOf rfl hi
    simp only [Instr.bus] at hb
    simp only [exec, execI2cTimingCalc, hb, hp]
  | _ => cases ha

/-- Moving a context and then returning is returning. -/
theorem State.returned_goto (hl : s.cur < s.ctxs.length) (p : Pos) : (s.goto p).returned = s.returned := by
  rw [State.returned, State.me_goto hl, State.goto, State.setMe_setMe, State.returned]

/-- A calculator whose value is `v` writes it in one micro-step and returns in the next, whoever holds the bus. -/
theorem runExec_calculator {inst : InstId} {v : Word} (hl : s.cur < s.ctxs.length) (ha : i.accesses = false)
    (hi : instOf s.plat i = some inst) (hstart : exec i s = calcResult (.ok v) s) :
    ∃ u, exec i s = .next u ∧ runExec i 1 u = .next (s.completedWith v) := by
  have hlen : (s.setRes v).cur < (s.setRes v).ctxs.length := by simpa using hl
  have hpos : ((s.setRes v).goto .ret).me.pos = .ret := by rw [State.me_goto hlen]
  refine ⟨(s.setRes v).goto .ret, hstart, ?_⟩
  rw [runExec_succ, exec_calculator_ret ha (by simpa using hi) hpos, State.returned_goto hlen, andThen_next,
    runExec_zero, State.completedWith]

end Calculator

/-! ## The statements about the calculators -/

/-- Settles O13: each entry of the table is evaluated, and the check of the tier comes first on every domain. -/
theorem spiBaudTable : Obligations.SpiBaudTable := by
  unfold Obligations.SpiBaudTable
  exact ⟨by decide, by decide, rfl, fun d tier htier => (spiBaud_eq d tier).trans (if_pos htier)⟩

/-- Settles O14: the fast domain's extra division makes up for its doubled source clock. -/
theorem spiClockIsTheNominalOne : Obligations.SpiClockIsTheNominalOne := by
  unfold Obligations.SpiClockIsTheNominalOne
  exact fun _ _ _ => spiClockHz_of_spiBaud

/-- Settles O15, mode by mode. -/
theorem i2cTimingTable : Obligations.I2cTimingTable := by
  unfold Obligations.I2cTimingTable
  refine ⟨fun b flags => ?_, i2cTimingAt_fast_duty rfl rfl .floor⟩
  rw [i2cTiming_eq]
  cases hfast : flags.getLsbD 0 with
  | false => exact i2cTimingAt_standard hfast .ceil
  | true =>
    cases hduty : flags.getLsbD 1 with
    | false => exact i2cTimingAt_fast hfast hduty .ceil
    | true => exact i2cTimingAt_fast_duty hfast hduty .ceil

/-- Settles O16: both commands are a calculator's run, with the value of the tier and the packed row of the table. -/
theorem calculatorsReturnTheirValue : Obligations.CalculatorsReturnTheirValue := by
  unfold Obligations.CalculatorsReturnTheirValue
  refine ⟨fun s bus tier b br hs hb hbr => ?_, fun s bus flags b hs hb => ?_⟩
  · refine runExec_calculator hs.here rfl (instOf_eq_spi.2 ⟨rfl, hb⟩) ?_
    rw [exec_spiBaudCalc_start hb hs.pos, hbr, Except.map]
  · refine runExec_calculator hs.here rfl (instOf_eq_i2c.2 ⟨rfl, hb⟩) ?_
    rw [exec_i2cTimingCalc_start hb hs.pos, i2cTimingTable.1 b flags, Except.map]
    split
    · split <;> rfl
    · rfl

end Sys2Proof.Machine

namespace Sys2Proof.Machine

/-! # Operand checks, and commands that end at once (R102, R116, R117, R125, R127, R130, R143) -/

/-! ## Claiming and releasing an SPI bus (R222) -/

/-- Giving a bus back leaves one that was free as it was. -/
theorem SpiBus.release_of_free {x : SpiBus} (hfree : x.inflight = none) : { x with inflight := none } = x := by
  rw [← hfree]

/-- The return of an SPI command that has done nothing but claim its free bus. -/
theorem finishSpi_holdingSpi {s : State} {b : BusId} (hfree : (s.spiAt b).inflight = none) :
    finishSpi b (s.holdingSpi b) = .next s.completed := by
  rw [finishSpi, State.holdingSpi, State.spiAt_setSpi, State.setSpi_setSpi, SpiBus.release_of_free hfree,
    State.setSpi_spiAt]
  rfl

/-! ## Operands that are refused (R102, R116, R117, R143) -/

/-- MODE is checked before TIER (R116, R117). -/
theorem beginBaud_of_invalidMode {mode : BitVec 4} (b : BusId) (tier : BitVec 8) (h : 4 ≤ mode.toNat) :
    beginBaud b tier mode = .error .invalidMode := if_pos h

theorem beginBaud_of_validMode {mode : BitVec 4} (b : BusId) (tier : BitVec 8) (h : mode.toNat < 4) :
    beginBaud b tier mode = spiBaud (Config.spiDomain b) tier := if_neg (Nat.not_le.2 h)

theorem spiBaud_of_invalidTier {tier : BitVec 8} (d : Domain) (h : 8 ≤ tier.toNat) :
    spiBaud d tier = .error .invalidTier := (spiBaud_eq d tier).trans (if_pos h)

/-- The fast domain's extra division puts the last tier out of reach (R103). -/
theorem spiBaud_b1_tier7 : spiBaud (Config.spiDomain .b1) 7 = .error .unreachableTier := rfl

/-- REMAP is checked before the timing, and only bus 1 has it (R143, R145). -/
theorem enableTiming_of_remap {flags : BitVec 4} {b : BusId} (h : flags.getLsbD 2 = true) (hb : b ≠ .b1) :
    enableTiming b flags = .error .invalidFlags := by
  have hremap : Config.i2cRemap b = false := by
    cases b with
    | b1 => exact absurd rfl hb
    | b2 | b3 => rfl
  rw [enableTiming, h, hremap]
  rfl

section Refused

variable {s : State} {bus : BitVec 4} {b : BusId} {e : ErrorKind}

theorem exec_spiBegin_of_error {tier : BitVec 8} {mode : BitVec 4} (ord : BitVec 1) (hs : RunsAt s .start)
    (hb : spiBusOf s.plat bus = some b) (hfree : (s.spiAt b).inflight = none)
    (he : beginBaud b tier mode = .error e) :
    exec (.spiBegin bus tier ord mode) s = .next ((s.holdingSpi b).halted e) := by
  simp only [exec, execSpiBegin, hb, hs.pos, acquireSpi_free _ hfree, he, raise_eq, State.holdingSpi]

theorem exec_spiBeginSlave_of_invalidMode {mode : BitVec 4} (ord : BitVec 1) (hs : RunsAt s .start)
    (hb : spiBusOf s.plat bus = some b) (hfree : (s.spiAt b).inflight = none) (hmode : 4 ≤ mode.toNat) :
    exec (.spiBeginSlave bus ord mode) s = .next ((s.holdingSpi b).halted .invalidMode) := by
  simp only [exec, execSpiBeginSlave, hb, hs.pos, acquireSpi_free _ hfree, hmode, if_true, raise_eq,
    State.holdingSpi]

theorem exec_spiBaudCalc_of_error {tier : BitVec 8} (hs : RunsAt s .start) (hb : spiBusOf s.plat bus = some b)
    (he : spiBaud (Config.spiDomain b) tier = .error e) :
    exec (.spiBaudCalc bus tier) s = .next (s.halted e) := by
  rw [exec_spiBaudCalc_start hb hs.pos, he]
  rfl

theorem exec_i2cMasterEnable_of_error {flags : BitVec 4} (hs : RunsAt s .start) (hb : i2cBusOf s.plat bus = some b)
    (hfree : (s.i2cAt b).inflight = none) (he : enableTiming b flags = .error e) :
    exec (.i2cMasterEnable bus flags) s = .next ((s.holdingI2c b).halted e) := by
  simp only [exec, execI2cMasterEnable, hb, hs.pos, acquireI2c_free _ hfree, he, raise_eq, State.holdingI2c]

end Refused

/-- Settles O12: each check is the first thing a command does with the bus it claimed, MODE before TIER. -/
theorem invalidOperandsHalt : Obligations.InvalidOperandsHalt := by
  unfold Obligations.InvalidOperandsHalt
  refine ⟨fun s bus tier ord mode b hs hb hfree => ⟨fun hmode => ⟨?_, ?_⟩, fun hmode htier => ?_, ?_⟩,
    fun s bus tier b hs hb => ⟨fun htier => ?_, ?_⟩, fun s bus flags b hs hb hfree hflag hother => ?_⟩
  · exact exec_spiBegin_of_error ord hs hb hfree (beginBaud_of_invalidMode b tier hmode)
  · exact exec_spiBeginSlave_of_invalidMode ord hs hb hfree hmode
  · exact exec_spiBegin_of_error ord hs hb hfree
      ((beginBaud_of_validMode b tier hmode).trans (spiBaud_of_invalidTier _ htier))
  · rintro hmode rfl rfl
    exact exec_spiBegin_of_error ord hs hb hfree ((beginBaud_of_validMode _ _ hmode).trans spiBaud_b1_tier7)
  · exact exec_spiBaudCalc_of_error hs hb (spiBaud_of_invalidTier _ htier)
  · rintro rfl rfl
    exact exec_spiBaudCalc_of_error hs hb spiBaud_b1_tier7
  · exact exec_i2cMasterEnable_of_error hs hb hfree (enableTiming_of_remap hflag hother)

/-! ## Commands that find nothing to do (R125, R127, R130) -/

/-- Settles O24: the claim, and the return in the same micro-step. -/
theorem lengthZeroReturnsAtOnce : Obligations.LengthZeroReturnsAtOnce := by
  unfold Obligations.LengthZeroReturnsAtOnce
  intro s bus b hs hb hfree hzero
  refine ⟨Eq.trans ?_ (finishSpi_holdingSpi hfree), Eq.trans ?_ (finishSpi_holdingSpi hfree)⟩
  · simp only [exec, execSpiRead, hb, hs.pos, acquireSpi_free _ hfree, State.setSpi_me, hzero, if_true,
      State.holdingSpi]
  · simp only [exec, execSpiWrite, hb, hs.pos, acquireSpi_free _ hfree, State.setSpi_me, hzero, if_true,
      State.holdingSpi]

/-- SPI.END claims a disabled bus and goes on to its return. -/
theorem exec_spiEnd_start_disabled {s : State} {bus : BitVec 4} {b : BusId} (hs : RunsAt s .start)
    (hb : spiBusOf s.plat bus = some b) (hfree : (s.spiAt b).inflight = none) (hoff : (s.spiAt b).spe = false) :
    exec (.spiEnd bus) s = .next (s.inSpi b { s.spiAt b with inflight := some s.cur } .ret) := by
  have hspe : ((s.setSpi b { s.spiAt b with inflight := some s.cur }).spiAt b).spe = false := by
    rw [State.spiAt_setSpi]; exact hoff
  simp only [exec, execSpiEnd, hb, hs.pos, acquireSpi_free _ hfree, hspe, Bool.false_eq_true, if_false]
  rfl

/-- Settles O21: the CR1 read leads to the return, which gives back the claim. -/
theorem spiEndOnDisabledIsANoOp : Obligations.SpiEndOnDisabledIsANoOp := by
  unfold Obligations.SpiEndOnDisabledIsANoOp
  intro s bus b hs hb hfree hoff
  refine ⟨_, exec_spiEnd_start_disabled hs hb hfree hoff, ?_⟩
  refine (runExec_inSpi_ret (i := .spiEnd bus) hs.here rfl rfl hb).trans ?_
  rw [SpiBus.release_of_free hfree, State.setSpi_spiAt]

/-! # The order of SPI.END (R124, R239) -/

section Ending

variable {s : State} {b : BusId}

theorem State.inSpi_pos (hl : s.cur < s.ctxs.length) (b : BusId) (x : SpiBus) (p : Pos) :
    (s.inSpi b x p).me.pos = p := by rw [State.inSpi_me hl]

/-- Where a status read of SPI.END leads, by the flag it tests. -/
theorem spiEndStep_drain : spiEndStep b .drain s = .next (s.inSpi b (s.spiAt b).readSr.2
    (.ending (if (s.spiAt b).rxne then .discard else .waitTxe))) := rfl

theorem spiEndStep_waitTxe : spiEndStep b .waitTxe s = .next (s.inSpi b (s.spiAt b).readSr.2
    (.ending (if (s.spiAt b).txe then .waitBsy else .waitTxe))) := rfl

theorem spiEndStep_waitBsy : spiEndStep b .waitBsy s = .next (s.inSpi b (s.spiAt b).readSr.2
    (.ending (if (s.spiAt b).shActive then .waitBsy else .disable))) := rfl

/-- The byte read to drain the receive buffer is thrown away. -/
theorem spiEndStep_discard :
    spiEndStep b .discard s = .next (s.inSpi b (s.spiAt b).readDr.2 (.ending .drain)) := rfl

/-- The disable halts the context where it stands, or leads to the return (R224). -/
theorem spiEndStep_disable_cases : spiEndStep b .disable s = .next (s.halted .disableWhileBusy) ∨
    ∃ x, spiEndStep b .disable s = .next (s.inSpi b x .ret) := by
  rcases spiWriteCr1_cases b (clearBit (s.spiAt b).cr1 spiSPE) s fun s => .next (s.goto .ret) with
    ⟨_, h⟩ | ⟨_, h⟩
  · exact .inl h
  · exact .inr ⟨_, h⟩

end Ending

/-- Settles O23: each status read goes on by the flag it tests, and only a refused disable stays where it is. -/
theorem spiEndKeepsItsOrder : Obligations.SpiEndKeepsItsOrder := by
  unfold Obligations.SpiEndKeepsItsOrder
  intro s t bus b p hs hb h
  rw [exec_spiEnd_ending hb hs.pos] at h
  have hpos := State.inSpi_pos hs.here b
  cases p with
  | drain =>
    rw [spiEndStep_drain] at h
    rw [← Host.Outcome.next.inj h, hpos]
    exact apply_ite Pos.ending ..
  | discard =>
    rw [spiEndStep_discard] at h
    rw [← Host.Outcome.next.inj h, hpos]
  | waitTxe =>
    rw [spiEndStep_waitTxe] at h
    rw [← Host.Outcome.next.inj h, hpos]
    exact apply_ite Pos.ending ..
  | waitBsy =>
    rw [spiEndStep_waitBsy] at h
    rw [← Host.Outcome.next.inj h, hpos]
    exact apply_ite Pos.ending ..
  | disable =>
    rcases spiEndStep_disable_cases (s := s) (b := b) with hhalt | ⟨x, hret⟩
    · rw [hhalt] at h
      have hme : (s.halted .disableWhileBusy).me = _ := State.me_setMe hs.here _
      rw [← Host.Outcome.next.inj h, hme]
      exact hs.pos
    · rw [hret] at h
      rw [← Host.Outcome.next.inj h, State.inSpi_me hs.here, hs.live]
      rfl

/-! # SPI.READ (R72, R127) -/

section Read

variable {s : State} {bus : BitVec 4} {b : BusId} {x : SpiBus} {p : Pos} {k : Nat}

/-- Writing caller memory inside an SPI command and moving on. -/
theorem State.inSpi_setMem_goto (hl : s.cur < s.ctxs.length) (m : Memory) (q : Pos) :
    ((s.inSpi b x p).setMem m).goto q = (s.setMem m).inSpi b x q :=
  State.goto_goto (s := (s.setMem m).setSpi b x) hl p q

/-- SPI.READ of at least one byte claims the bus and reads the status. -/
theorem exec_spiRead_start (hs : RunsAt s .start) (hb : spiBusOf s.plat bus = some b)
    (hfree : (s.spiAt b).inflight = none) (hlen : s.me.issued.arg1 ≠ 0) :
    exec (.spiRead bus) s = spiReadStep b s.me.issued.arg0 s.me.issued.arg1 (.wait 0)
      (s.inSpi b { s.spiAt b with inflight := some s.cur } .start) := by
  rw [← State.setSpi_eq_inSpi hs.pos]
  simp only [exec, execSpiRead, hb, hs.pos, acquireSpi_free _ hfree, State.setSpi_me, hlen, if_false]

/-- A status read that sees a received byte goes on to read it. -/
theorem spiReadStep_wait {buf len : Word} (hl : s.cur < s.ctxs.length) (hrxne : x.rxne = true) :
    spiReadStep b buf len (.wait k) (s.inSpi b x p) = .next (s.inSpi b x.readSr.2 (.reading (.data k))) := by
  rw [spiReadStep, spiPoll_inSpi, show testBit x.sr spiRXNE = true from hrxne, if_pos rfl, State.inSpi_goto hl]

/-- The next micro-step of a run inside the byte loop. -/
theorem runExec_reading (hl : s.cur < s.ctxs.length) (hb : spiBusOf s.plat bus = some b) (p : ReadPos) (n : Nat) :
    runExec (.spiRead bus) (n + 1) (s.inSpi b x (.reading p)) =
      andThen (spiReadStep b s.me.issued.arg0 s.me.issued.arg1 p (s.inSpi b x (.reading p)))
        (runExec (.spiRead bus) n) := by
  have hme : (s.inSpi b x (.reading p)).me = { s.me with pos := .reading p } := State.inSpi_me hl
  rw [runExec_succ, exec_spiRead_reading (s := s.inSpi b x (.reading p)) hb (by rw [hme]), hme]

/-- The byte is read and stored (R127). -/
theorem runExec_readByte (hl : s.cur < s.ctxs.length) (hb : spiBusOf s.plat bus = some b)
    (ha : allows s.plat (s.me.issued.arg0.toNat + k) 1 = true) (n : Nat) :
    runExec (.spiRead bus) (n + 1 + 1) (s.inSpi b x (.reading (.data k))) =
      runExec (.spiRead bus) n ((s.setMem (s.mem.write (s.me.issued.arg0.toNat + k) x.rxbuf)).inSpi b x.readDr.2
        (spiReadNext (k + 1) s.me.issued.arg1.toNat)) := by
  rw [runExec_reading hl hb, spiReadStep, spiTake_inSpi, State.inSpi_goto hl, andThen_next, runExec_reading hl hb,
    spiReadStep, memWrite8_of_allows (s := s.inSpi b x.readDr.2 _) ha, State.inSpi_setMem_goto hl, andThen_next]
  rfl

end Read

/-- Settles O25: the status read sees the byte, and the next two micro-steps read and store it. -/
theorem spiReadStoresTheByte : Obligations.SpiReadStoresTheByte := by
  unfold Obligations.SpiReadStoresTheByte
  intro s bus b sr hb hrxne hsr
  refine ⟨fun k hs ha => ?_, fun hs hfree hone ha => ?_⟩
  · have hwait := spiReadStep_wait (b := b) (buf := s.me.issued.arg0) (len := s.me.issued.arg1) (p := s.me.pos)
      (k := k) hs.here hrxne
    rw [State.inSpi_self rfl] at hwait
    refine ⟨_, (exec_spiRead_reading hb hs.pos).trans hwait, (runExec_readByte hs.here hb ha 0).trans ?_⟩
    rw [runExec_zero, hsr]
    rfl
  · have hlen : s.me.issued.arg1 ≠ 0 := by rw [hone]; decide
    have hstart := exec_spiRead_start hs hb hfree hlen
    generalize hy : ({ s.spiAt b with inflight := some s.cur } : SpiBus) = y at hstart
    have hyrxne : y.rxne = true := by rw [← hy]; exact hrxne
    refine ⟨_, hstart.trans (spiReadStep_wait hs.here hyrxne), (runExec_readByte hs.here hb ha 1).trans ?_⟩
    have hnext : spiReadNext (0 + 1) (1 : Word).toNat = .ret := rfl
    rw [hone, hnext, ← hy, hsr]
    refine (runExec_inSpi_ret (s := s.setMem (s.mem.write s.me.issued.arg0.toNat (s.spiAt b).rxbuf))
      (i := .spiRead bus) hs.here rfl rfl hb).trans ?_
    simp only [hfree]
    rfl

/-! # SPI.BEGIN and SPI.BEGIN_SLAVE (R113 to R121) -/

section Configure

variable {i : Instr} {s : State} {b : BusId} {x : SpiBus} {p : Pos} {cr1 : Word} {cfg : PinState}

/-- A write of CR1 inside an SPI command that is not refused. -/
theorem spiWriteCr1_inSpi {v : Word} (hgo : x.disablesBusy v = false) (k : State → Result) :
    spiWriteCr1 b v (s.inSpi b x p) k = k (s.inSpi b (x.writeCr1 v) p) := by
  rw [spiWriteCr1, State.inSpi_spiAt, hgo, if_neg Bool.false_ne_true, State.inSpi_setSpi]

/-- What R224 asks before SPE is cleared: an enabled bus has nothing in flight and nothing to send. -/
theorem SpiBus.not_disablesBusy_of_quiet (hquiet : x.spe = true → x.shActive = false ∧ x.txe = true) (v : Word) :
    x.disablesBusy v = false := by
  cases hon : x.spe with
  | false => simp [SpiBus.disablesBusy, hon]
  | true => simp [SpiBus.disablesBusy, hquiet hon]

theorem SpiBus.not_disablesBusy_of_disabled (hoff : x.spe = false) (v : Word) : x.disablesBusy v = false :=
  x.not_disablesBusy_of_quiet (fun hon => nomatch hoff.symm.trans hon) v

/-- Setting SPE disables nothing. -/
theorem SpiBus.not_disablesBusy_setSpe (x : SpiBus) (v : Word) : x.disablesBusy (setBit v spiSPE) = false := by
  have hon : testBit (setBit v spiSPE) spiSPE = true := by rw [testBit_setBit _ _ _ (by decide)]; simp
  simp [SpiBus.disablesBusy, hon]

theorem SpiBus.spe_writeCr1_clear (x : SpiBus) : (x.writeCr1 (clearBit x.cr1 spiSPE)).spe = false := by
  unfold SpiBus.spe SpiBus.writeCr1
  rw [testBit_and, testBit_clearBit]
  simp

/-- SPE is a bit that CR1 has, so a configuration that fits CR1 fits it enabled as well. -/
theorem setBit_spe_masked {v : Word} (h : v &&& spiCr1Mask = v) :
    setBit (v &&& spiCr1Mask) spiSPE &&& spiCr1Mask = setBit v spiSPE := by
  rw [h]
  refine eq_of_testBit_eq fun j _ => ?_
  have hv : (testBit v j && testBit spiCr1Mask j) = testBit v j := by rw [← testBit_and, h]
  have hspe : testBit spiCr1Mask spiSPE = true := by decide
  rw [testBit_and, testBit_setBit _ _ _ (by decide), Bool.and_or_distrib_right, hv]
  by_cases hj : spiSPE = j
  · subst hj; rw [hspe, Bool.and_true]
  · rw [decide_eq_false hj, Bool.false_and]

/-- Past its operand checks the command `i` is SpiReconfigure of SPI bus b with the configuration `cr1` and the pins
`cfg`: SPI.BEGIN and SPI.BEGIN_SLAVE with valid operands (R115, R118, R121). -/
structure Configures (i : Instr) (plat : Platform) (b : BusId) (cr1 : Word) (cfg : PinState) : Prop where
  spi    : i.isSpi = true
  holds  : i.accesses = true
  bus    : spiBusOf plat i.bus = some b
  begins : ∀ s : State, s.plat = plat → s.me.pos = .start → exec i s = acquireSpi b s (spiReconfigure b)
  steps  : ∀ (s : State) (p : CfgPos), s.plat = plat → s.me.pos = .cfg p →
    exec i s = spiReconfigureStep b cr1 cfg p s

theorem configures_spiBegin {plat : Platform} {bus : BitVec 4} {tier : BitVec 8} {mode : BitVec 4} {br : BitVec 3}
    (ord : BitVec 1) (hb : spiBusOf plat bus = some b) (hbaud : beginBaud b tier mode = .ok br) :
    Configures (.spiBegin bus tier ord mode) plat b (masterCr1 ord (modeBits mode) br) .spiMaster where
  spi := rfl
  holds := rfl
  bus := hb
  begins := by
    rintro s rfl hp
    simp only [exec, execSpiBegin, hb, hp, hbaud]
  steps := by
    rintro s p rfl hp
    simp only [exec, execSpiBegin, hb, hp, hbaud]

theorem configures_spiBeginSlave {plat : Platform} {bus mode : BitVec 4} (ord : BitVec 1)
    (hb : spiBusOf plat bus = some b) (hmode : mode.toNat < 4) :
    Configures (.spiBeginSlave bus ord mode) plat b (slaveCr1 ord (modeBits mode)) .spiSlave where
  spi := rfl
  holds := rfl
  bus := hb
  begins := by
    rintro s rfl hp
    simp only [exec, execSpiBeginSlave, hb, hp, Nat.not_le.2 hmode, if_false]
  steps := by
    rintro s p rfl hp
    simp only [exec, execSpiBeginSlave, hb, hp]

/-- The first micro-step claims a free bus and clears SPE. -/
theorem Configures.exec_start (hi : Configures i s.plat b cr1 cfg) (hs : RunsAt s .start)
    (hfree : (s.spiAt b).inflight = none)
    (hquiet : (s.spiAt b).spe = true → (s.spiAt b).shActive = false ∧ (s.spiAt b).txe = true) :
    exec i s = .next (s.inSpi b
      { (s.spiAt b).writeCr1 (clearBit (s.spiAt b).cr1 spiSPE) with inflight := some s.cur } (.cfg .writeCr1)) := by
  have hgo (v : Word) : { s.spiAt b with inflight := some s.cur }.disablesBusy v = false :=
    SpiBus.not_disablesBusy_of_quiet (x := { s.spiAt b with inflight := some s.cur }) hquiet v
  rw [hi.begins s rfl hs.pos, acquireSpi_free _ hfree, State.setSpi_eq_inSpi hs.pos, spiReconfigure,
    spiWriteCr1_inSpi (hgo _), State.inSpi_goto hs.here, State.inSpi_spiAt]
  rfl

/-- The next micro-step of a run inside SpiReconfigure. -/
theorem Configures.runExec_cfg (hi : Configures i s.plat b cr1 cfg) (hl : s.cur < s.ctxs.length) (p : CfgPos)
    (n : Nat) : runExec i (n + 1) (s.inSpi b x (.cfg p)) =
      andThen (spiReconfigureStep b cr1 cfg p (s.inSpi b x (.cfg p))) (runExec i n) := by
  rw [runExec_succ, hi.steps (s.inSpi b x (.cfg p)) p rfl (State.inSpi_pos hl b x _)]

/-- The configuration is written with SPE = 0, the pins are connected, SPE is set, and the command returns (R115). -/
theorem Configures.runExec_configure (hi : Configures i s.plat b cr1 cfg) (hl : s.cur < s.ctxs.length)
    (hoff : x.spe = false) (hcr1 : cr1 &&& spiCr1Mask = cr1) :
    runExec i 4 (s.inSpi b x (.cfg .writeCr1)) = .next ((s.setSpi b { x with
      cr1 := setBit cr1 spiSPE, pins := cfg, inflight := none }).emit (.pin (.spi b) cfg)).completed := by
  have hpins (y : SpiBus) (p q : Pos) : (pinConfigSpi b cfg (s.inSpi b y p)).goto q =
      (s.emit (.pin (.spi b) cfg)).inSpi b { y with pins := cfg } q := by
    rw [pinConfigSpi, State.inSpi_spiAt, State.inSpi_setSpi]
    exact State.inSpi_goto (s := s.emit _) hl q
  rw [hi.runExec_cfg hl, spiReconfigureStep, spiWriteCr1_inSpi (SpiBus.not_disablesBusy_of_disabled hoff _),
    State.inSpi_goto hl, andThen_next]
  rw [hi.runExec_cfg hl, spiReconfigureStep, hpins, andThen_next]
  generalize hu : s.emit (.pin (.spi b) cfg) = u
  have hlu : u.cur < u.ctxs.length := by rw [← hu]; exact hl
  have hiu : Configures i u.plat b cr1 cfg := by rw [← hu]; exact hi
  rw [hiu.runExec_cfg hlu, spiReconfigureStep, State.inSpi_spiAt, spiWriteCr1_inSpi (SpiBus.not_disablesBusy_setSpe ..),
    State.inSpi_goto hlu, andThen_next]
  refine (runExec_inSpi_ret hlu hiu.spi hiu.holds hiu.bus).trans ?_
  simp only [SpiBus.writeCr1, setBit_spe_masked hcr1, ← hu, State.setSpi_emit]

/-- SpiReconfigure from issue to return, uninterrupted (R115). -/
theorem Configures.run (hi : Configures i s.plat b cr1 cfg) (hs : RunsAt s .start)
    (hfree : (s.spiAt b).inflight = none)
    (hquiet : (s.spiAt b).spe = true → (s.spiAt b).shActive = false ∧ (s.spiAt b).txe = true)
    (hcr1 : cr1 &&& spiCr1Mask = cr1) :
    ∃ u, exec i s = .next u ∧ runExec i 4 u = .next ((s.setSpi b { s.spiAt b with
      cr1 := setBit cr1 spiSPE, pins := cfg }).emit (.pin (.spi b) cfg)).completed := by
  refine ⟨_, hi.exec_start hs hfree hquiet, (hi.runExec_configure hs.here ?_ hcr1).trans ?_⟩
  · exact SpiBus.spe_writeCr1_clear _
  · simp only [SpiBus.writeCr1, hfree]

end Configure

/-! ## The configuration values (R113, R114, R120) -/

theorem masterCr1_masked (ord : BitVec 1) (m : BitVec 2) (br : BitVec 3) :
    masterCr1 ord m br &&& spiCr1Mask = masterCr1 ord m br := by
  revert ord m br; decide

theorem slaveCr1_masked (ord : BitVec 1) (m : BitVec 2) : slaveCr1 ord m &&& spiCr1Mask = slaveCr1 ord m := by
  revert ord m; decide

/-- The master's CR1 at TIER 4 with SPE set: BR is 5 on the fast domain and 4 on the slow one (R120). -/
theorem masterCr1_enabled_tier4 (ord : BitVec 1) (mode : BitVec 4) (hmode : mode.toNat < 4) (fast : Bool) :
    setBit (masterCr1 ord (modeBits mode) (if fast then 5 else 4)) spiSPE =
      (if ord = 1 then 0x036C else 0x03EC) + mode.setWidth 32 - (if fast then 0 else 0x08) := by
  revert ord mode fast; decide

theorem slaveCr1_enabled (ord : BitVec 1) (mode : BitVec 4) (hmode : mode.toNat < 4) :
    setBit (slaveCr1 ord (modeBits mode)) spiSPE = (if ord = 1 then 0x40 else 0xC0) + mode.setWidth 32 := by
  revert ord mode; decide

/-- Settles O17: past the operand checks SPI.BEGIN is SpiReconfigure with the master's CR1 and pins. -/
theorem spiBeginConfiguresTheMaster : Obligations.SpiBeginConfiguresTheMaster := by
  unfold Obligations.SpiBeginConfiguresTheMaster
  intro s bus tier ord mode b br hs hb hfree hmode hbaud hquiet
  exact (configures_spiBegin ord hb ((beginBaud_of_validMode b tier hmode).trans hbaud)).run hs hfree hquiet
    (masterCr1_masked ..)

/-- Settles O19: likewise with the slave's CR1 and pins, its CR1 as a number. -/
theorem spiBeginSlaveConfiguresTheSlave : Obligations.SpiBeginSlaveConfiguresTheSlave := by
  unfold Obligations.SpiBeginSlaveConfiguresTheSlave
  intro s bus ord mode b hs hb hfree hmode hquiet
  rw [← slaveCr1_enabled ord mode hmode]
  exact (configures_spiBeginSlave ord hb hmode).run hs hfree hquiet (slaveCr1_masked ..)

/-- Settles O18: the CR1 of O17 for the BR code of TIER 4 on each of the two buses. -/
theorem beginTableOfCr1 : Obligations.BeginTableOfCr1 := by
  unfold Obligations.BeginTableOfCr1
  intro s bus ord mode b hs hb hb3 hfree hmode hquiet
  have hbaud : spiBaud (Config.spiDomain b) 4 = .ok (if b = .b1 then 5 else 4) := by
    cases b with
    | b1 | b2 => rfl
    | b3 => exact absurd rfl hb3
  obtain ⟨u, hstart, hrun⟩ := spiBeginConfiguresTheMaster s bus 4 ord mode b _ hs hb hfree hmode hbaud hquiet
  refine ⟨u, _, hstart, hrun, ?_⟩
  rw [State.completed, State.returned_spiAt, State.emit_spiAt, State.spiAt_setSpi]
  simpa using masterCr1_enabled_tier4 ord mode hmode (decide (b = .b1))

end Sys2Proof.Machine

namespace Sys2Proof.Machine

/-! # The I2C device commands (R138 to R150) -/

/-! ## The state inside an I2C command -/

/-- `s` inside an I2C command: at position `p`, with I2C bus b replaced and the records `es` appended. -/
def State.inI2c (s : State) (b : BusId) (x : I2cBus) (es : List BusEvent) (p : Pos) : State :=
  s.i2cRun b x es s.mem { s.me with pos := p }

section Run

variable {i : Instr} {s : State} {b : BusId} {x : I2cBus} {es : List BusEvent} {p : Pos}

theorem State.inI2c_eq_goto : s.inI2c b x es p = ((s.setI2c b x).emitAll es).goto p := rfl

/-- Inside a command that has appended no record. -/
theorem State.inI2c_nil : s.inI2c b x [] p = (s.setI2c b x).goto p := by
  rw [State.inI2c_eq_goto, State.emitAll_nil]

theorem State.inI2c_self (hp : s.me.pos = p) : s.inI2c b (s.i2cAt b) [] p = s := by
  rw [State.inI2c, ← hp]
  exact s.i2cRun_self b

theorem State.inI2c_setI2c (y : I2cBus) : (s.inI2c b x es p).setI2c b y = s.inI2c b y es p :=
  State.i2cRun_setI2c

/-- A command that has only replaced its bus. -/
theorem State.setI2c_eq_inI2c (hp : s.me.pos = p) : s.setI2c b x = s.inI2c b x [] p := by
  rw [← State.inI2c_setI2c (x := s.i2cAt b), State.inI2c_self hp]

@[simp] theorem State.inI2c_i2cAt : (s.inI2c b x es p).i2cAt b = x := State.i2cRun_i2cAt

theorem State.inI2c_me (hl : s.cur < s.ctxs.length) : (s.inI2c b x es p).me = { s.me with pos := p } :=
  State.i2cRun_me hl

theorem State.inI2c_goto (hl : s.cur < s.ctxs.length) (q : Pos) : (s.inI2c b x es p).goto q = s.inI2c b x es q := by
  rw [State.goto, State.inI2c_me hl]
  exact State.i2cRun_setMe

/-! ### The collaborator calls (R205 to R207) -/

theorem gpioWrite_scl_inI2c (v : Bool) : gpioWrite b .scl v (s.inI2c b x es p) =
    s.inI2c b { x with gpioScl := v } (es ++ [.gpio b .scl v]) p := by
  rw [gpioWrite, State.inI2c_i2cAt, State.inI2c_setI2c]
  exact State.i2cRun_emit

theorem gpioWrite_sda_inI2c (v : Bool) : gpioWrite b .sda v (s.inI2c b x es p) =
    s.inI2c b { x with gpioSda := v } (es ++ [.gpio b .sda v]) p := by
  rw [gpioWrite, State.inI2c_i2cAt, State.inI2c_setI2c]
  exact State.i2cRun_emit

theorem pinConfigI2c_inI2c (cfg : PinState) : pinConfigI2c b cfg (s.inI2c b x es p) =
    s.inI2c b { x with pins := cfg } (es ++ [.pin (.i2c b) cfg]) p := by
  rw [pinConfigI2c, State.inI2c_i2cAt, State.inI2c_setI2c]
  exact State.i2cRun_emit

theorem delayFor_inI2c (n : Nat) : delayFor n (s.inI2c b x es p) = s.inI2c b x (es ++ [.delay n]) p :=
  State.i2cRun_emit

theorem gpioRead_inI2c (line : Line) : gpioRead b line (s.inI2c b x es p) = (x.latch line && s.turn.bit) := by
  rw [gpioRead, State.inI2c_i2cAt]
  rfl

/-! ### The return (R26, R27) -/

/-- The return micro-step of every I2C command that holds its bus until then. -/
theorem exec_i2c_ret (hs : i.isSpi = false) (ha : i.accesses = true) (hx : ∀ bus, i ≠ .i2cMasterXfer bus)
    (hb : i2cBusOf s.plat i.bus = some b) (hp : s.me.pos = .ret) : exec i s = finishI2c b s := by
  cases i with
  | i2cInit | i2cMasterEnable | i2cBusReset =>
    simp only [Instr.bus] at hb
    simp only [exec, execI2cInit, execI2cMasterEnable, execI2cBusReset, hb, hp]
  | i2cMasterXfer bus => exact absurd rfl (hx bus)
  | i2cTimingCalc => cases ha
  | _ => cases hs

theorem finishI2c_inI2c (hl : s.cur < s.ctxs.length) : finishI2c b (s.inI2c b x es p) =
    .next ((s.setI2c b { x with inflight := none }).emitAll es).completed := by
  rw [finishI2c, State.inI2c_i2cAt, State.inI2c_setI2c, State.returned, State.inI2c_me hl, State.inI2c_eq_goto,
    State.goto, State.setMe_setMe]
  rfl

/-- The return, last in a run. -/
theorem runExec_inI2c_ret (hl : s.cur < s.ctxs.length) (hs : i.isSpi = false) (ha : i.accesses = true)
    (hx : ∀ bus, i ≠ .i2cMasterXfer bus) (hb : i2cBusOf s.plat i.bus = some b) :
    runExec i 1 (s.inI2c b x es .ret) = .next ((s.setI2c b { x with inflight := none }).emitAll es).completed := by
  have hpos : (s.inI2c b x es .ret).me.pos = .ret := by rw [State.inI2c_me hl]
  rw [runExec_succ, exec_i2c_ret (s := s.inI2c b x es .ret) hs ha hx hb hpos, finishI2c_inI2c hl, andThen_next,
    runExec_zero]

end Run

/-! ## I2C.INIT (R139, R141) -/

section Init

variable {s : State} {bus : BitVec 4} {b : BusId} {x : I2cBus} {es : List BusEvent}

/-- The first micro-step claims a free bus and disables the device. -/
theorem exec_i2cInit_start (hs : RunsAt s .start) (hb : i2cBusOf s.plat bus = some b)
    (hfree : (s.i2cAt b).inflight = none) :
    exec (.i2cInit bus) s = .next (s.inI2c b { s.i2cAt b with
      inflight := some s.cur, dev := { (s.i2cAt b).dev with state := .disabled } } [] (.init .flags)) := by
  simp only [exec, execI2cInit, hb, hs.pos, acquireI2c_free _ hfree, State.i2cAt_setI2c, State.setI2c_setI2c,
    State.inI2c_nil]

/-- The next micro-step of a run inside I2C.INIT. -/
theorem runExec_init (hl : s.cur < s.ctxs.length) (hb : i2cBusOf s.plat bus = some b) (p : InitPos) (n : Nat) :
    runExec (.i2cInit bus) (n + 1) (s.inI2c b x es (.init p)) =
      andThen (i2cInitStep b p (s.inI2c b x es (.init p))) (runExec (.i2cInit bus) n) := by
  have hpos : (s.inI2c b x es (.init p)).me.pos = .init p := by rw [State.inI2c_me hl]
  have hplat : i2cBusOf (s.inI2c b x es (.init p)).plat bus = some b := hb
  rw [runExec_succ]
  simp only [exec, execI2cInit, hplat, hpos]

/-- The error flags are cleared and the peripheral is reset. -/
theorem runExec_init_flags (hl : s.cur < s.ctxs.length) (hb : i2cBusOf s.plat bus = some b) (n : Nat) :
    runExec (.i2cInit bus) (n + 2) (s.inI2c b x es (.init .flags)) = runExec (.i2cInit bus) n
      (s.inI2c b { x.peripheralReset with dev := { x.dev with errorFlags := 0 } } es .ret) := by
  simp only [runExec_init hl hb, i2cInitStep, State.inI2c_i2cAt, State.inI2c_setI2c, State.inI2c_goto hl, andThen_next]
  rfl

end Init

/-- Settles O32: the claim with the device state, the error flags, the reset of the peripheral, and the return. -/
theorem i2cInitResetsTheInstance : Obligations.I2cInitResetsTheInstance := by
  unfold Obligations.I2cInitResetsTheInstance
  intro s bus b hs hb hfree
  refine ⟨_, exec_i2cInit_start hs hb hfree, (runExec_init_flags hs.here hb 1).trans ?_⟩
  refine (runExec_inI2c_ret (i := .i2cInit bus) hs.here rfl rfl nofun hb).trans ?_
  rw [State.emitAll_nil]
  rfl

/-! ## The bus-reset sequence (R148, R149) -/

/-- The command `i` runs `BusReset(b)` at its bus-reset positions, and goes on from it to `done`. -/
def RunsBusReset (i : Instr) (plat : Platform) (b : BusId) (done : Pos) : Prop :=
  ∀ (s : State) (p : BusResetPos), s.plat = plat → s.me.pos = .busReset p → exec i s = busResetStep b p done s

theorem runsBusReset_i2cBusReset {plat : Platform} {bus : BitVec 4} {b : BusId} (hb : i2cBusOf plat bus = some b) :
    RunsBusReset (.i2cBusReset bus) plat b .ret := by
  rintro s p rfl hp
  simp only [exec, execI2cBusReset, hb, hp]

theorem runsBusReset_i2cMasterEnable {plat : Platform} {bus : BitVec 4} {b : BusId} (flags : BitVec 4)
    (hb : i2cBusOf plat bus = some b) : RunsBusReset (.i2cMasterEnable bus flags) plat b (.enabling .pins) := by
  rintro s p rfl hp
  simp only [exec, execI2cMasterEnable, hb, hp]

/-- The records of a clock pulse while SDA is held low. -/
def clockPulse (b : BusId) : List BusEvent := [.delay 10, .gpio b .scl false, .delay 10, .gpio b .scl true, .delay 10]

/-- The records of the start and the stop condition that end the sequence. -/
def startStop (b : BusId) : List BusEvent :=
  [.gpio b .sda false, .delay 10, .gpio b .scl false, .delay 10, .gpio b .scl true, .delay 10, .gpio b .sda true]

section BusReset

variable {i : Instr} {s : State} {b : BusId} {x : I2cBus} {es : List BusEvent} {done : Pos}

/-- The lines are released by their latches first. -/
theorem busResetStep_releaseScl {p : Pos} (hl : s.cur < s.ctxs.length) :
    busResetStep b .releaseScl done (s.inI2c b x es p) =
      .next (s.inI2c b { x with gpioScl := true } (es ++ [.gpio b .scl true]) (.busReset .releaseSda)) := by
  rw [busResetStep, gpioWrite_scl_inI2c, State.inI2c_goto hl]

/-- The next micro-step of a run inside the sequence. -/
theorem runExec_busReset (hi : RunsBusReset i s.plat b done) (hl : s.cur < s.ctxs.length) (p : BusResetPos) (n : Nat) :
    runExec i (n + 1) (s.inI2c b x es (.busReset p)) =
      andThen (busResetStep b p done (s.inI2c b x es (.busReset p))) (runExec i n) := by
  have hpos : (s.inI2c b x es (.busReset p)).me.pos = .busReset p := by rw [State.inI2c_me hl]
  rw [runExec_succ, hi (s.inI2c b x es (.busReset p)) p rfl hpos]

theorem runExec_releaseScl (hi : RunsBusReset i s.plat b done) (hl : s.cur < s.ctxs.length) (n : Nat) :
    runExec i (n + 1) (s.inI2c b x es (.busReset .releaseScl)) =
      runExec i n (s.inI2c b { x with gpioScl := true } (es ++ [.gpio b .scl true]) (.busReset .releaseSda)) := by
  rw [runExec_busReset hi hl, busResetStep_releaseScl hl, andThen_next]

/-- SDA is released and the pins go to GPIO mode. -/
theorem runExec_releaseSda (hi : RunsBusReset i s.plat b done) (hl : s.cur < s.ctxs.length) (n : Nat) :
    runExec i (n + 2) (s.inI2c b x es (.busReset .releaseSda)) =
      runExec i n (s.inI2c b { x with gpioSda := true, pins := .gpioOD }
        (es ++ [.gpio b .sda true, .pin (.i2c b) .gpioOD]) (.busReset .readSda)) := by
  simp only [runExec_busReset hi hl, busResetStep, gpioWrite_sda_inI2c, pinConfigI2c_inI2c, State.inI2c_goto hl,
    andThen_next, List.append_assoc, List.cons_append, List.nil_append]

/-- A read of SDA that is high leaves the loop. -/
theorem runExec_readSda (hi : RunsBusReset i s.plat b done) (hl : s.cur < s.ctxs.length) (hlatch : x.gpioSda = true)
    (hbit : s.turn.bit = true) (n : Nat) :
    runExec i (n + 1) (s.inI2c b x es (.busReset .readSda)) =
      runExec i n (s.inI2c b x es (.busReset .startSda)) := by
  rw [runExec_busReset hi hl, busResetStep, gpioRead_inI2c, I2cBus.latch, hlatch, hbit, Bool.and_self, if_pos rfl,
    State.inI2c_goto hl, andThen_next]

/-- One clock pulse, and back to the read of SDA. -/
theorem runExec_clockPulse (hi : RunsBusReset i s.plat b done) (hl : s.cur < s.ctxs.length) (n : Nat) :
    runExec i (n + 5) (s.inI2c b x es (.busReset .delay1)) =
      runExec i n (s.inI2c b { x with gpioScl := true } (es ++ clockPulse b) (.busReset .readSda)) := by
  simp only [runExec_busReset hi hl, busResetStep, delayFor_inI2c, gpioWrite_scl_inI2c, State.inI2c_goto hl,
    andThen_next, List.append_assoc, List.cons_append, List.nil_append, clockPulse]

/-- The start and the stop condition, and the end of the sequence. -/
theorem runExec_startStop (hi : RunsBusReset i s.plat b done) (hl : s.cur < s.ctxs.length) (n : Nat) :
    runExec i (n + 7) (s.inI2c b x es (.busReset .startSda)) =
      runExec i n (s.inI2c b { x with gpioScl := true, gpioSda := true } (es ++ startStop b) done) := by
  simp only [runExec_busReset hi hl, busResetStep, delayFor_inI2c, gpioWrite_scl_inI2c, gpioWrite_sda_inI2c,
    State.inI2c_goto hl, andThen_next, List.append_assoc, List.cons_append, List.nil_append, startStop]

/-- From the released SCL to the end, where SDA reads high at once. -/
theorem runExec_releasedBus (hi : RunsBusReset i s.plat b done) (hl : s.cur < s.ctxs.length) (hbit : s.turn.bit = true)
    (n : Nat) : runExec i (n + 10) (s.inI2c b x es (.busReset .releaseSda)) =
      runExec i n (s.inI2c b { x with pins := .gpioOD, gpioScl := true, gpioSda := true }
        (es ++ ([.gpio b .sda true, .pin (.i2c b) .gpioOD] ++ startStop b)) done) := by
  rw [runExec_releaseSda hi hl (n + 8), runExec_readSda hi hl rfl hbit (n + 7), runExec_startStop hi hl,
    List.append_assoc]

/-- While SDA reads low the sequence goes to its wait for SCL. -/
theorem exec_readSda_low (hi : RunsBusReset i s.plat b done) (hs : RunsAt s (.busReset .readSda))
    (hbit : s.turn.bit = false) : exec i s = .next (s.goto (.busReset .readScl)) := by
  rw [hi s _ rfl hs.pos, busResetStep, gpioRead, hbit, Bool.and_false, if_neg Bool.false_ne_true]

theorem exec_readSda_high (hi : RunsBusReset i s.plat b done) (hs : RunsAt s (.busReset .readSda))
    (hbit : s.turn.bit = true) (hlatch : (s.i2cAt b).gpioSda = true) :
    exec i s = .next (s.inI2c b (s.i2cAt b) [] (.busReset .startSda)) := by
  rw [hi s _ rfl hs.pos, busResetStep, gpioRead, I2cBus.latch, hlatch, hbit, Bool.and_self, if_pos rfl,
    State.inI2c_nil, State.setI2c_i2cAt]

/-- While SCL reads low the wait stays where it is. -/
theorem exec_readScl_low (hi : RunsBusReset i s.plat b done) (hs : RunsAt s (.busReset .readScl))
    (hbit : s.turn.bit = false) : exec i s = .next s := by
  rw [hi s _ rfl hs.pos, busResetStep, gpioRead, hbit, Bool.and_false, if_neg Bool.false_ne_true,
    State.goto_self hs.pos]

theorem exec_readScl_high (hi : RunsBusReset i s.plat b done) (hs : RunsAt s (.busReset .readScl))
    (hbit : s.turn.bit = true) (hlatch : (s.i2cAt b).gpioScl = true) :
    exec i s = .next (s.inI2c b (s.i2cAt b) [] (.busReset .delay1)) := by
  rw [hi s _ rfl hs.pos, busResetStep, gpioRead, I2cBus.latch, hlatch, hbit, Bool.and_self, if_pos rfl,
    State.inI2c_nil, State.setI2c_i2cAt]

/-- A wait that sees SCL high gives one clock pulse, which leaves the latches as they were. -/
theorem runExec_readScl_high (hi : RunsBusReset i s.plat b done) (hs : RunsAt s (.busReset .readScl))
    (hbit : s.turn.bit = true) (hlatch : (s.i2cAt b).gpioScl = true) :
    ∃ u, exec i s = .next u ∧ runExec i 5 u = .next ((s.emitAll (clockPulse b)).goto (.busReset .readSda)) := by
  refine ⟨_, exec_readScl_high hi hs hbit hlatch, (runExec_clockPulse hi hs.here 0).trans ?_⟩
  rw [← hlatch, runExec_zero, State.inI2c_eq_goto, State.setI2c_i2cAt, List.nil_append]

end BusReset

/-! ## I2C.BUS_RESET -/

/-- The first micro-step claims a free bus and releases SCL. -/
theorem exec_i2cBusReset_start {s : State} {bus : BitVec 4} {b : BusId} (hs : RunsAt s .start)
    (hb : i2cBusOf s.plat bus = some b) (hfree : (s.i2cAt b).inflight = none) :
    exec (.i2cBusReset bus) s = .next (s.inI2c b { s.i2cAt b with inflight := some s.cur, gpioScl := true }
      [.gpio b .scl true] (.busReset .releaseSda)) := by
  simp only [exec, execI2cBusReset, hb, hs.pos, acquireI2c_free _ hfree]
  rw [State.setI2c_eq_inI2c hs.pos, busResetStep_releaseScl hs.here]
  rfl

/-- Settles O35: the sequence from its first line, and from each of its reads. -/
theorem busResetSequence : Obligations.BusResetSequence := by
  unfold Obligations.BusResetSequence
  intro s bus b hb
  have hi : RunsBusReset (.i2cBusReset bus) s.plat b .ret := runsBusReset_i2cBusReset hb
  refine ⟨fun hs hfree hbit => ?_, exec_readSda_low hi, exec_readScl_low hi, runExec_readScl_high hi,
    fun hs hbit hlatch => ?_⟩
  · refine ⟨_, exec_i2cBusReset_start hs hb hfree, (runExec_releasedBus hi hs.here hbit 1).trans ?_⟩
    refine (runExec_inI2c_ret (i := .i2cBusReset bus) hs.here rfl rfl nofun hb).trans ?_
    simp only [hfree]
    rfl
  · refine ⟨_, exec_readSda_high hi hs hbit hlatch, (runExec_startStop hi hs.here 1).trans ?_⟩
    exact runExec_inI2c_ret (i := .i2cBusReset bus) hs.here rfl rfl nofun hb

/-! ## I2C.MASTER_ENABLE (R143, R144) -/

/-! ### The register values -/

/-- A mask leaves a value within it as it is. -/
theorem and_eq_of_within {m v : Word} (h : within m v = true) : v &&& m = v := by
  refine eq_of_testBit_eq fun j hj => ?_
  rw [testBit_and, Bool.and_eq_left_iff_imp]
  exact within_iff_testBit.1 h j hj

/-- A written CR1 has no reserved bit (R45, R73). -/
theorem I2cBus.writeCr1_cr1_within (x : I2cBus) (v : Word) : within i2cCr1Mask (x.writeCr1 v).cr1 = true := by
  rcases x.writeCr1_cases v with ⟨-, -, e⟩ | ⟨-, e⟩ <;> rw [e]
  · exact within_clearBit (within_clearBit (within_clearBit (within_and_mask ..) _) _) _
  · exact within_and_mask ..

/-- PE is a bit CR1 has, so setting it in a written CR1 sets no reserved bit. -/
theorem I2cBus.setPe_writeCr1_masked (x : I2cBus) (v : Word) :
    setBit (x.writeCr1 v).cr1 i2cPE &&& i2cCr1Mask = setBit (x.writeCr1 v).cr1 i2cPE :=
  and_eq_of_within (within_setBit (x.writeCr1_cr1_within v) rfl)

/-- Whoever holds the bus, a write of CR1 does the same. -/
theorem I2cBus.writeCr1_claimed (x : I2cBus) (o : Option Nat) (v : Word) :
    { x with inflight := o }.writeCr1 v = { x.writeCr1 v with inflight := o } := by
  unfold I2cBus.writeCr1 I2cBus.pe
  cases testBit x.cr1 i2cPE && !testBit v i2cPE <;> rfl

/-- Setting PE disables nothing (R201). -/
theorem I2cBus.writeCr1_setPe (x : I2cBus) :
    x.writeCr1 (setBit x.cr1 i2cPE) = { x with cr1 := setBit x.cr1 i2cPE &&& i2cCr1Mask } := by
  rcases x.writeCr1_cases (setBit x.cr1 i2cPE) with ⟨-, hoff, -⟩ | ⟨-, e⟩
  · rw [testBit_setBit _ _ _ (by decide)] at hoff
    simp at hoff
  · exact e

/-- The values of a timing fit the registers they are written to (R46, R51, R52). -/
structure Timing.Fits (t : Timing) : Prop where
  cr2   : t.cr2 &&& i2cCr2Mask = BitVec.ofNat 32 t.freq
  ccr   : t.ccrReg &&& i2cCcrMask = t.ccrReg
  trise : t.triseReg &&& i2cTriseMask = BitVec.ofNat 32 t.trise

/-- Each row of the timing table fits. -/
theorem fits_of_i2cTiming {b : BusId} {flags : BitVec 4} {t : Timing} (h : i2cTiming b flags = .ok t) : t.Fits := by
  rw [i2cTimingTable.1] at h
  cases h
  split
  · split <;> exact ⟨rfl, rfl, rfl⟩
  · exact ⟨rfl, rfl, rfl⟩

/-- Bus 1 alone may be remapped (R145). -/
theorem enableTiming_of_remapOk {b : BusId} {flags : BitVec 4} (h : flags.getLsbD 2 = true → b = .b1) :
    enableTiming b flags = i2cTiming b flags := by
  refine if_neg fun hbad => ?_
  rw [Bool.and_eq_true] at hbad
  obtain ⟨hremap, hno⟩ := hbad
  rw [h hremap] at hno
  cases hno

section Enable

variable {s : State} {bus flags : BitVec 4} {b : BusId} {x : I2cBus} {es : List BusEvent} {t : Timing}

/-- The first micro-step claims a free bus and clears PE. -/
theorem exec_i2cMasterEnable_start (hs : RunsAt s .start) (hb : i2cBusOf s.plat bus = some b)
    (hfree : (s.i2cAt b).inflight = none) (ht : enableTiming b flags = .ok t) :
    exec (.i2cMasterEnable bus flags) s = .next (s.inI2c b
      { (s.i2cAt b).writeCr1 (clearBit (s.i2cAt b).cr1 i2cPE) with inflight := some s.cur } [] (.enabling .cr2)) := by
  simp only [exec, execI2cMasterEnable, hb, hs.pos, acquireI2c_free _ hfree, ht, State.i2cAt_setI2c,
    State.setI2c_setI2c, I2cBus.writeCr1_claimed, State.inI2c_nil]

/-- The next micro-step of a run past the PE clear. -/
theorem runExec_enabling (hl : s.cur < s.ctxs.length) (hb : i2cBusOf s.plat bus = some b)
    (ht : enableTiming b flags = .ok t) (p : EnablePos) (n : Nat) :
    runExec (.i2cMasterEnable bus flags) (n + 1) (s.inI2c b x es (.enabling p)) =
      andThen (i2cEnableStep b flags t p (s.inI2c b x es (.enabling p))) (runExec (.i2cMasterEnable bus flags) n) := by
  have hpos : (s.inI2c b x es (.enabling p)).me.pos = .enabling p := by rw [State.inI2c_me hl]
  have hplat : i2cBusOf (s.inI2c b x es (.enabling p)).plat bus = some b := hb
  rw [runExec_succ]
  simp only [exec, execI2cMasterEnable, hplat, hpos, ht]

/-- A write of a timing register of a disabled peripheral. -/
theorem i2cWriteTiming_inI2c {p : Pos} (hoff : x.pe = false) (f : I2cBus → I2cBus) (k : State → Result) :
    i2cWriteTiming b f (s.inI2c b x es p) k = k (s.inI2c b (f x) es p) := by
  rw [i2cWriteTiming, State.inI2c_i2cAt, hoff, if_neg Bool.false_ne_true, State.inI2c_setI2c]

/-- The three timing registers, and then the bus reset or the pins. -/
theorem runExec_programTiming (hl : s.cur < s.ctxs.length) (hb : i2cBusOf s.plat bus = some b)
    (ht : enableTiming b flags = .ok t) (hfits : t.Fits) (hoff : x.pe = false) (n : Nat) :
    runExec (.i2cMasterEnable bus flags) (n + 3) (s.inI2c b x es (.enabling .cr2)) =
      runExec (.i2cMasterEnable bus flags) n (s.inI2c b { x with
          cr2 := BitVec.ofNat 32 t.freq, ccr := t.ccrReg, trise := BitVec.ofNat 32 t.trise } es
        (if flags.getLsbD 3 then .busReset .releaseScl else .enabling .pins)) := by
  have hcr2 : (x.writeCr2 t.cr2).pe = false := hoff
  have hccr : ((x.writeCr2 t.cr2).writeCcr t.ccrReg).pe = false := hoff
  simp only [runExec_enabling hl hb ht, i2cEnableStep, i2cWriteTiming_inI2c hoff, i2cWriteTiming_inI2c hcr2,
    i2cWriteTiming_inI2c hccr, State.inI2c_goto hl, andThen_next]
  simp only [I2cBus.writeCr2, I2cBus.writeCcr, I2cBus.writeTrise, hfits.cr2, hfits.ccr, hfits.trise]

/-- The pins, the device state, PE, and the return. -/
theorem runExec_connect (hl : s.cur < s.ctxs.length) (hb : i2cBusOf s.plat bus = some b)
    (ht : enableTiming b flags = .ok t) :
    runExec (.i2cMasterEnable bus flags) 4 (s.inI2c b x es (.enabling .pins)) = .next ((s.setI2c b { x with
      cr1 := setBit x.cr1 i2cPE &&& i2cCr1Mask
      pins := .i2cAF (flags.getLsbD 2)
      inflight := none
      dev := { x.dev with state := .idle } }).emitAll
        (es ++ [.pin (.i2c b) (.i2cAF (flags.getLsbD 2))])).completed := by
  simp only [runExec_enabling hl hb ht, i2cEnableStep, pinConfigI2c_inI2c, State.inI2c_i2cAt, State.inI2c_setI2c,
    I2cBus.writeCr1_setPe, State.inI2c_goto hl, andThen_next]
  exact runExec_inI2c_ret (i := .i2cMasterEnable bus flags) hl rfl rfl nofun hb

/-- From issue to the last timing register: what the PE clear did stands (R143, R144). -/
theorem runExec_programTiming_start (hs : RunsAt s .start) (hb : i2cBusOf s.plat bus = some b)
    (hfree : (s.i2cAt b).inflight = none) (ht : enableTiming b flags = .ok t) (hfits : t.Fits) (n : Nat) :
    ∃ u, exec (.i2cMasterEnable bus flags) s = .next u ∧ runExec (.i2cMasterEnable bus flags) (n + 3) u =
      runExec (.i2cMasterEnable bus flags) n (s.inI2c b { (s.i2cAt b).writeCr1 (clearBit (s.i2cAt b).cr1 i2cPE) with
          cr2 := BitVec.ofNat 32 t.freq, ccr := t.ccrReg, trise := BitVec.ofNat 32 t.trise
          inflight := some s.cur } []
        (if flags.getLsbD 3 then .busReset .releaseScl else .enabling .pins)) := by
  refine ⟨_, exec_i2cMasterEnable_start hs hb hfree ht, runExec_programTiming hs.here hb ht hfits ?_ n⟩
  exact (s.i2cAt b).pe_writeCr1_clear

end Enable

/-- Settles O33: the PE clear, the three timing registers, and from there straight to the pins. -/
theorem masterEnableProgramsTheTiming : Obligations.MasterEnableProgramsTheTiming := by
  unfold Obligations.MasterEnableProgramsTheTiming
  intro s bus flags b t hs hb hfree hno hremap htiming
  have ht : enableTiming b flags = .ok t := (enableTiming_of_remapOk hremap).trans htiming
  obtain ⟨u, hstart, hrun⟩ := runExec_programTiming_start hs hb hfree ht (fits_of_i2cTiming htiming) 4
  obtain ⟨howner, hdev⟩ := (s.i2cAt b).writeCr1_keeps (clearBit (s.i2cAt b).cr1 i2cPE)
  refine ⟨u, hstart, hrun.trans ?_⟩
  rw [hno, if_neg Bool.false_ne_true]
  refine (runExec_connect hs.here hb ht).trans ?_
  simp only [I2cBus.setPe_writeCr1_masked, howner, hdev, hfree]
  rfl

/-- Settles O34: as O33 with the bus-reset sequence before the pins; and from each of its reads. -/
theorem masterEnableWithBusReset : Obligations.MasterEnableWithBusReset := by
  unfold Obligations.MasterEnableWithBusReset
  intro s bus flags b t hb hremap htiming
  have ht : enableTiming b flags = .ok t := (enableTiming_of_remapOk hremap).trans htiming
  have hi : RunsBusReset (.i2cMasterEnable bus flags) s.plat b (.enabling .pins) :=
    runsBusReset_i2cMasterEnable flags hb
  refine ⟨fun hs hfree hyes hbit => ?_, exec_readSda_low hi, exec_readScl_low hi, runExec_readScl_high hi,
    fun hs hbit hlatch => ?_⟩
  · obtain ⟨u, hstart, hrun⟩ := runExec_programTiming_start hs hb hfree ht (fits_of_i2cTiming htiming) 15
    obtain ⟨howner, hdev⟩ := (s.i2cAt b).writeCr1_keeps (clearBit (s.i2cAt b).cr1 i2cPE)
    refine ⟨u, hstart, hrun.trans ?_⟩
    rw [hyes, if_pos rfl]
    refine (runExec_releaseScl hi hs.here 14).trans ?_
    refine (runExec_releasedBus hi hs.here hbit 4).trans ?_
    refine (runExec_connect hs.here hb ht).trans ?_
    simp only [I2cBus.setPe_writeCr1_masked, howner, hdev, hfree]
    rfl
  · refine ⟨_, exec_readSda_high hi hs hbit hlatch, (runExec_startStop hi hs.here 4).trans ?_⟩
    exact runExec_connect hs.here hb ht

end Sys2Proof.Machine

namespace Sys2Proof.Machine

/-! # The guard, the message load and the exits of I2C.MASTER_XFER (R154, R155, R157, R164, R169, R170, R172) -/

/-! ## The entry guard (R154, R155) -/

theorem exec_i2cMasterXfer_start {s : State} {bus : BitVec 4} {b : BusId} (hb : i2cBusOf s.plat bus = some b)
    (hp : s.me.pos = .start) : exec (.i2cMasterXfer bus) s = xferGuard b s := by
  simp [exec, execI2cMasterXfer, hb, hp]

theorem guardOpen_iff {d : DevState} : guardOpen d = true ↔ d = .idle ∨ d = .transferDone ∨ d = .error := by
  cases d <;> simp [guardOpen]

theorem xferArgsOk_iff {msgs arg1 : Word} : xferArgsOk msgs arg1 = true ↔
    arg1.extractLsb' 16 16 = 0 ∧ arg1.extractLsb' 0 16 ≠ 0 ∧ msgs.toNat % 4 = 0 := by
  simp [xferArgsOk, countOf_eq_extract, and_assoc]

/-- `x` as the guard leaves it: claimed by context `c`, with the device `Busy` (R154, R222). -/
def I2cBus.claimed (x : I2cBus) (c : Nat) : I2cBus :=
  { x with inflight := some c, dev := { x.dev with state := .busy } }

/-- The guard lets a free bus pass in a device state it admits (R154). -/
theorem xferGuard_open {s : State} {b : BusId} (hfree : (s.i2cAt b).inflight = none)
    (hopen : guardOpen (s.i2cAt b).dev.state = true) :
    xferGuard b s = .next (s.inEntry b ((s.i2cAt b).claimed s.cur)
      (if xferArgsOk s.me.issued.arg0 s.me.issued.arg1 then .checkAddr 0 else .bad)) := by
  rw [xferGuard, if_pos hopen, acquireI2c_free _ hfree, State.setDev, State.i2cAt_setI2c, State.setI2c_setI2c]
  rfl

/-- Settles O36: the guard passes, and the operand checks name the next position. -/
theorem xferGuardClaimsTheInstance : Obligations.XferGuardClaimsTheInstance := by
  unfold Obligations.XferGuardClaimsTheInstance
  intro s bus b hs hb hfree hstate
  have hguard := (exec_i2cMasterXfer_start hb hs.pos).trans (xferGuard_open hfree (guardOpen_iff.2 hstate))
  refine ⟨fun hargs => ?_, fun hargs => ⟨_, hguard, ?_⟩⟩
  · rw [hguard, if_pos (xferArgsOk_iff.2 hargs)]
    rfl
  · rw [if_neg (mt xferArgsOk_iff.1 hargs)]
    exact runExec_entry_bad (s := s.setI2c b ((s.i2cAt b).claimed s.cur)) hs.here hb

/-! ## The message load (R157) -/

section Load

variable {s : State} {bus : BitVec 4} {b : BusId} {addr flags len : Half}

/-- The next micro-step of a run inside the message load. -/
theorem runExec_load (hl : s.cur < s.ctxs.length) (hb : i2cBusOf s.plat bus = some b) (p : LoadPos) (n : Nat) :
    runExec (.i2cMasterXfer bus) (n + 1) (s.goto (.xferLoad p)) =
      andThen (xferLoadStep b p (s.goto (.xferLoad p))) (runExec (.i2cMasterXfer bus) n) := by
  have hpos : (s.goto (.xferLoad p)).me.pos = .xferLoad p := by rw [State.me_goto hl]
  rw [runExec_succ, exec_i2cMasterXfer_load (s := s.goto (.xferLoad p)) hb hpos]

theorem memRead32_of_allows {a : Nat} {f : Word → Result} (h : allows s.plat a 4 = true) :
    memRead32 a s f = f (s.mem.read32 a) := memAccess_of_allows h

/-- The three halves of the current descriptor are read in turn (R65, R157). -/
theorem runExec_load_halves (hl : s.cur < s.ctxs.length) (hb : i2cBusOf s.plat bus = some b)
    (haddr : allows s.plat (currentDesc s b) 2 = true) (hflags : allows s.plat (currentDesc s b + 2) 2 = true)
    (hlen : allows s.plat (currentDesc s b + 4) 2 = true) :
    runExec (.i2cMasterXfer bus) 3 (s.goto (.xferLoad .addr)) =
      .next (s.goto (.xferLoad (.data (s.mem.read16 (currentDesc s b)) (s.mem.read16 (currentDesc s b + 2))
        (s.mem.read16 (currentDesc s b + 4))))) := by
  rw [runExec_load hl hb, xferLoadStep, State.goto_currentDesc, memRead16_of_allows (s := s.goto _) haddr,
    State.goto_goto hl, andThen_next,
    runExec_load hl hb, xferLoadStep, State.goto_currentDesc, memRead16_of_allows (s := s.goto _) hflags,
    State.goto_goto hl, andThen_next,
    runExec_load hl hb, xferLoadStep, State.goto_currentDesc, memRead16_of_allows (s := s.goto _) hlen,
    State.goto_goto hl, andThen_next, runExec_zero]
  rfl

/-- The data field is read, and the four checks decide (R155, R157). -/
theorem runExec_load_data (hl : s.cur < s.ctxs.length) (hb : i2cBusOf s.plat bus = some b)
    (hdata : allows s.plat (currentDesc s b + 8) 4 = true) (n : Nat) :
    runExec (.i2cMasterXfer bus) (n + 1) (s.goto (.xferLoad (.data addr flags len))) =
      runExec (.i2cMasterXfer bus) n (s.goto (if descOk addr flags len then
        .xferLoad (.clear (msgOf addr flags len (s.mem.read32 (currentDesc s b + 8)))) else .xferEntry .bad)) := by
  rw [runExec_load hl hb, xferLoadStep, State.goto_currentDesc, memRead32_of_allows (s := s.goto _) hdata,
    State.goto_goto hl, andThen_next]
  rfl

/-- `xferred` is cleared, and the message begins (R157). -/
theorem runExec_load_clear (hl : s.cur < s.ctxs.length) (hb : i2cBusOf s.plat bus = some b) (m : Msg)
    (hcount : allows s.plat (currentDesc s b + 6) 2 = true) :
    runExec (.i2cMasterXfer bus) 1 (s.goto (.xferLoad (.clear m))) =
      .next ((s.setMem (s.mem.write16 (currentDesc s b + 6) 0)).goto (.xfer m (.wait .pendStart .sr1))) := by
  rw [runExec_load hl hb, xferLoadStep, State.goto_currentDesc, memWrite16_of_allows (s := s.goto _) hcount,
    State.goto_mem, State.setMem_goto, State.setMem_goto_goto hl, andThen_next, runExec_zero]

/-- The descriptor that the cursor names once its index is `i` (R157; log entry 13). -/
theorem currentDesc_of_index {i : Nat} (hi : i < 65536) : currentDesc (s.setI2c b { s.i2cAt b with
    dev := { (s.i2cAt b).dev with cursor := { (s.i2cAt b).dev.cursor with idx := BitVec.ofNat 16 i } } }) b =
      (s.i2cAt b).dev.cursor.msgs.toNat + 12 * i := by
  rw [currentDesc, State.cursorAt, State.i2cAt_setI2c, descAddr, BitVec.toNat_ofNat, Nat.mod_eq_of_lt hi]

end Load

/-- Settles O39: the index, the three halves, and what the four checks make of the data field's micro-step. -/
theorem xferLoadsTheMessage : Obligations.XferLoadsTheMessage := by
  unfold Obligations.XferLoadsTheMessage
  intro s bus b i d addr flags len bad t hs hb hi hd haddr hflags hlen hdata eaddr eflags elen hbad ht
  have hdesc : currentDesc t b = d := by rw [ht, currentDesc_of_index hi, hd]
  have hexec : exec (.i2cMasterXfer bus) s = .next (t.goto (.xferLoad .addr)) := by
    rw [exec_i2cMasterXfer_load hb hs.pos, ht]
    rfl
  have hl : t.cur < t.ctxs.length := by rw [ht]; exact hs.here
  have hplat : t.plat = s.plat := by rw [ht]; rfl
  have hmem : t.mem = s.mem := by rw [ht]; rfl
  rw [← hplat] at hb haddr hflags hlen hdata
  rw [← hmem] at eaddr eflags elen
  subst hdesc eaddr eflags elen
  have hok := descOk_iff.trans (not_congr hbad.symm)
  have hhalves (n : Nat) := runExec_add (.i2cMasterXfer bus) 3 n (t.goto (.xferLoad .addr))
  simp only [runExec_load_halves hl hb haddr hflags hlen, andThen_next] at hhalves
  refine ⟨fun hgood hcount => ⟨_, hexec, (hhalves 2).trans ?_⟩, fun hfail => ⟨_, hexec, (hhalves 2).trans ?_⟩⟩
  · rw [runExec_load_data hl hb hdata, if_pos (hok.2 hgood), runExec_load_clear hl hb _ (hplat ▸ hcount), hmem]
    rfl
  · rw [runExec_load_data hl hb hdata, if_neg fun h => hok.1 h hfail, runExec_entry_bad hl hb]

/-! ## The exits (R164, R169, R170, R172) -/

theorem exec_i2cMasterXfer_ret {s : State} {bus : BitVec 4} {b : BusId} (hb : i2cBusOf s.plat bus = some b)
    (hp : s.me.pos = .ret) : exec (.i2cMasterXfer bus) s = .next s.returned := by
  simp [exec, execI2cMasterXfer, hb, hp]

section Exits

variable {s : State} {bus : BitVec 4} {b : BusId} {m : Msg}

theorem State.modifyI2cCr1_stop (s : State) (b : BusId) : s.modifyI2cCr1 b (setBit (s.i2cAt b).cr1 i2cSTOP) =
    s.setI2c b { s.i2cAt b with cr1 := setBit (s.i2cAt b).cr1 i2cSTOP &&& i2cCr1Mask } :=
  s.modifyI2cCr1_putBit b true (by decide) (by decide)

/-- RES takes the exit's code, and the command returns (R170, R172, R173). -/
theorem runExec_exitResult (hl : s.cur < s.ctxs.length) (hb : i2cBusOf s.plat bus = some b) (e : Exit) :
    runExec (.i2cMasterXfer bus) 2 (s.goto (.xfer m (.exitResult e))) = .next (s.completedWith e.code) := by
  have hres : ((s.goto (.xfer m (.exitResult e))).setRes e.code).goto .ret = (s.setRes e.code).goto .ret := by
    rw [State.setRes_goto (s := s.goto _) (by simpa using hl), State.me_goto hl, State.goto, State.setMe_setMe,
      State.setRes_goto hl]
  have hlr : (s.setRes e.code).cur < (s.setRes e.code).ctxs.length := by simpa using hl
  have hpos : ((s.setRes e.code).goto .ret).me.pos = .ret := by rw [State.me_goto hlr]
  rw [runExec_xfer hl hb, xferStep, hres, andThen_next, runExec_succ,
    exec_i2cMasterXfer_ret (s := (s.setRes e.code).goto .ret) hb hpos, andThen_next, runExec_zero,
    State.returned_goto hlr, State.completedWith]

/-- Every exit from its update of the device state on (R170, R172): the bus is released, and RES is written. -/
theorem runExec_exitState (hl : s.cur < s.ctxs.length) (hb : i2cBusOf s.plat bus = some b) (e : Exit) :
    runExec (.i2cMasterXfer bus) 4 (s.goto (.xfer m (.exitState e))) =
      .next ((s.setI2c b { s.i2cAt b with
        inflight := none, dev := { (s.i2cAt b).dev with state := e.devState } }).completedWith e.code) := by
  rw [runExec_xfer hl hb, xferStep, State.setDev, State.goto_i2cAt, State.setI2c_goto, State.setI2c_goto_goto hl,
    andThen_next]
  rw [runExec_xfer (s := s.setI2c b _) hl hb, xferStep, State.goto_i2cAt, State.i2cAt_setI2c, State.setI2c_goto,
    State.setI2c_setI2c, State.setI2c_goto_goto hl, andThen_next]
  exact runExec_exitResult (s := s.setI2c b _) hl hb e

/-- The exits that request a stop (R169, R170). -/
theorem runExec_exitStop (hl : s.cur < s.ctxs.length) (hb : i2cBusOf s.plat bus = some b) (e : Exit) :
    runExec (.i2cMasterXfer bus) 5 (s.goto (.xfer m (.exitStop e))) =
      .next ((s.setI2c b { s.i2cAt b with
        cr1 := setBit (s.i2cAt b).cr1 i2cSTOP &&& i2cCr1Mask
        inflight := none
        dev := { (s.i2cAt b).dev with state := e.devState } }).completedWith e.code) := by
  rw [runExec_xfer hl hb, xferStep, State.modifyI2cCr1_stop, State.goto_i2cAt, State.setI2c_goto,
    State.setI2c_goto_goto hl, andThen_next, runExec_exitState (s := s.setI2c b _) hl hb, State.i2cAt_setI2c,
    State.setI2c_setI2c]

end Exits

/-- Settles O42: the error flags are set, and the rest is the exit with a stop. -/
theorem protocolFaultExit : Obligations.ProtocolFaultExit := by
  unfold Obligations.ProtocolFaultExit
  intro s bus b m v hb hs
  refine ⟨_, exec_i2cMasterXfer_xfer hb hs.pos, ?_⟩
  have hexit := runExec_exitStop (s := s.setI2c b { s.i2cAt b with
    dev := { (s.i2cAt b).dev with errorFlags := (v &&& errMask).setWidth 16 } }) (m := m) hs.here hb .protocol
  rw [State.i2cAt_setI2c, State.setI2c_setI2c] at hexit
  exact hexit

/-- Settles O43: two exits from their first micro-step, and the STOP write. -/
theorem timeoutAndSuccessExits : Obligations.TimeoutAndSuccessExits := by
  unfold Obligations.TimeoutAndSuccessExits
  intro s bus b m hb
  refine ⟨fun hs => runExec_succ_eq_next ?_, fun hs => ?_, fun hs => runExec_succ_eq_next ?_⟩
  · have hexit := runExec_exitStop (m := m) hs.here hb .timeout
    rwa [State.goto_self hs.pos] at hexit
  · rw [exec_i2cMasterXfer_xfer hb hs.pos, xferStep, State.modifyI2cCr1_stop]
  · have hexit := runExec_exitState (m := m) hs.here hb .ok
    rwa [State.goto_self hs.pos] at hexit

end Sys2Proof.Machine

namespace Sys2Proof.Machine

/-! # A run of I2C.MASTER_XFER in the turns of its context (R12, R26, R179)

A micro-step looks at the turns to come for the running context alone, so what holds of the uninterrupted run of a command
holds of a block of turns of its context. -/

/-- `s` with the turns `ts` to come, as step `n`. -/
def State.withTurns (s : State) (ts : List Turn) (n : Nat) : State := { s with env := ts, seq := n }

/-- `r'` is the answer `r` of a micro-step in `s` with the turns replaced, and a context that `r` leaves running was
running in `s`. -/
structure SameAnswer (s : State) (ts : List Turn) (n : Nat) (r r' : Result) : Prop where
  turns : r' = andThen r fun t => .next (t.withTurns ts n)
  live  : ∀ t, r = .next t → t.me.fault = none → s.me.fault = none

section SameAnswer

variable {s u : State} {ts : List Turn} {n : Nat} {r r' : Result}

theorem State.withTurns_i2cAt (b : BusId) : (s.withTurns ts n).i2cAt b = s.i2cAt b := rfl

theorem State.withTurns_cur (ht : (s.withTurns ts n).turn = s.turn) : (s.withTurns ts n).cur = s.cur := by
  rw [State.cur, ht, State.cur]

theorem State.withTurns_me (ht : (s.withTurns ts n).turn = s.turn) : (s.withTurns ts n).me = s.me := by
  rw [State.me, State.withTurns_cur ht]
  rfl

/-- A micro-step ends with a replacement of the running context. -/
theorem SameAnswer.setMe (ht : (s.withTurns ts n).turn = s.turn) (hl : s.cur < s.ctxs.length) {m : Ctx}
    (hm : m.fault = none → s.me.fault = none) (hc : u.ctxs = s.ctxs := by rfl) (hu : u.turn = s.turn := by rfl) :
    SameAnswer s ts n (.next (u.setMe m)) (.next ((u.withTurns ts n).setMe m)) where
  turns := by
    have hcur : (u.withTurns ts n).cur = u.cur := by rw [State.cur, State.cur, hu, ← ht]; rfl
    rw [State.setMe, hcur]
    rfl
  live t e hf := by
    have hlu : u.cur < u.ctxs.length := by rw [State.cur, hu, hc]; exact hl
    rw [← Host.Outcome.next.inj e, State.me_setMe hlu] at hf
    exact hm hf

theorem SameAnswer.goto (ht : (s.withTurns ts n).turn = s.turn) (hl : s.cur < s.ctxs.length) (p : Pos)
    (hc : u.ctxs = s.ctxs := by rfl) (hu : u.turn = s.turn := by rfl) :
    SameAnswer s ts n (.next (u.goto p)) (.next ((u.withTurns ts n).goto p)) := by
  have hme : u.me = s.me := by rw [State.me, State.me, State.cur, hu, State.ctxAt, hc]; rfl
  have htu : (u.withTurns ts n).turn = u.turn := by rw [hu, ← ht]; rfl
  rw [State.goto, State.goto, State.withTurns_me htu]
  exact .setMe ht hl (fun hf => hme ▸ hf) hc hu

theorem SameAnswer.raise (ht : (s.withTurns ts n).turn = s.turn) (hl : s.cur < s.ctxs.length) (k : ErrorKind) :
    SameAnswer s ts n (raise k s) (raise k (s.withTurns ts n)) := by
  rw [Machine.raise, Machine.raise, State.withTurns_me ht]
  exact .setMe ht hl nofun

/-- A refused access leaves everything as it is (R67). -/
theorem SameAnswer.memAccess {a k : Nat} (h : SameAnswer s ts n r r') :
    SameAnswer s ts n (memAccess a k s r) (memAccess a k (s.withTurns ts n) r') := by
  unfold Machine.memAccess
  by_cases ha : allows s.plat a k = true
  · rw [if_pos ha, if_pos (show allows (s.withTurns ts n).plat a k = true from ha)]
    exact h
  · rw [if_neg ha, if_neg (show ¬allows (s.withTurns ts n).plat a k = true from ha)]
    exact ⟨rfl, fun t e hf => Host.Outcome.next.inj e ▸ hf⟩

variable {b : BusId} {m : Msg}

/-- The guard rejects, holding nothing (R154). -/
theorem xferGuard_closed (hl : s.cur < s.ctxs.length) (hopen : guardOpen (s.i2cAt b).dev.state = false) :
    xferGuard b s = .next (s.setMe { s.me with
      res := i2cErrorBusy, resWritten := true, pos := .ready, cc := s.me.cc + 1 }) := by
  rw [Machine.xferGuard, hopen, if_neg Bool.false_ne_true, State.returned, State.me_setRes hl, State.setRes,
    State.setMe_setMe]

/-- A bus that another context holds (R222). -/
theorem xferGuard_held {o : Nat} (hheld : (s.i2cAt b).inflight = some o)
    (hopen : guardOpen (s.i2cAt b).dev.state = true) : xferGuard b s = Machine.raise .concurrentUse s := by
  rw [Machine.xferGuard, if_pos hopen, acquireI2c, hheld]

theorem SameAnswer.xferGuard (ht : (s.withTurns ts n).turn = s.turn) (hl : s.cur < s.ctxs.length) :
    SameAnswer s ts n (xferGuard b s) (xferGuard b (s.withTurns ts n)) := by
  cases hopen : guardOpen (s.i2cAt b).dev.state with
  | false =>
    have hlt : (s.withTurns ts n).cur < (s.withTurns ts n).ctxs.length := by rw [State.withTurns_cur ht]; exact hl
    rw [xferGuard_closed hl hopen, xferGuard_closed (s := s.withTurns ts n) hlt hopen, State.withTurns_me ht]
    exact .setMe ht hl id
  | true =>
    cases hfree : (s.i2cAt b).inflight with
    | some o =>
      rw [xferGuard_held hfree hopen, xferGuard_held (s := s.withTurns ts n) hfree hopen]
      exact .raise ht hl _
    | none =>
      rw [xferGuard_open hfree hopen, xferGuard_open (s := s.withTurns ts n) hfree hopen, State.withTurns_cur ht,
        State.withTurns_me ht]
      exact .goto ht hl _

theorem SameAnswer.xferEntryStep (ht : (s.withTurns ts n).turn = s.turn) (hl : s.cur < s.ctxs.length) (p : EntryPos) :
    SameAnswer s ts n (xferEntryStep b p s) (xferEntryStep b p (s.withTurns ts n)) := by
  unfold Machine.xferEntryStep
  rw [State.withTurns_me ht]
  cases p with
  | checkAddr | checkFlags | checkLen => exact .memAccess (.goto ht hl _)
  | bad => exact .raise ht hl _
  | _ => exact .goto ht hl _

theorem SameAnswer.xferLoadStep (ht : (s.withTurns ts n).turn = s.turn) (hl : s.cur < s.ctxs.length) (p : LoadPos) :
    SameAnswer s ts n (xferLoadStep b p s) (xferLoadStep b p (s.withTurns ts n)) := by
  cases p with
  | index => exact .goto ht hl _
  | clear m => exact .memAccess (.goto ht hl _)
  | _ => exact .memAccess (.goto ht hl _)

theorem SameAnswer.waitStep (ht : (s.withTurns ts n).turn = s.turn) (hl : s.cur < s.ctxs.length) (w : WaitPt)
    (t : WaitStage) :
    SameAnswer s ts n (xferStep b m (.wait w t) s) (xferStep b m (.wait w t) (s.withTurns ts n)) := by
  cases t with
  | cr1 | now => exact .goto ht hl _
  | sr1 =>
    cases hf : hasFault (s.i2cAt b).sr1 with
    | true =>
      rw [xferStep_wait_fault w hf, xferStep_wait_fault (s := s.withTurns ts n) w hf]
      exact .goto ht hl _
    | false =>
      cases hw : w.sr1Bit with
      | none =>
        rw [xferStep_wait_pending hf hw, xferStep_wait_pending (s := s.withTurns ts n) hf hw]
        exact .goto ht hl _
      | some i =>
        rw [xferStep_wait_flag hf hw, xferStep_wait_flag (s := s.withTurns ts n) hf hw]
        exact .goto ht hl _

theorem SameAnswer.xferStep (ht : (s.withTurns ts n).turn = s.turn) (hl : s.cur < s.ctxs.length) (p : XferPos) :
    SameAnswer s ts n (xferStep b m p s) (xferStep b m p (s.withTurns ts n)) := by
  cases p with
  | wait w t => exact .waitStep ht hl w t
  | rxStore | rxCount | txCount => exact .memAccess (.goto ht hl _)
  | txFetch => exact .memAccess (.goto ht hl _)
  | exitResult e =>
    have hlt : (s.withTurns ts n).cur < (s.withTurns ts n).ctxs.length := by rw [State.withTurns_cur ht]; exact hl
    rw [Machine.xferStep, Machine.xferStep, State.setRes_goto hl, State.setRes_goto hlt, State.withTurns_me ht]
    exact .setMe ht hl id
  | _ => exact .goto ht hl _

/-- A micro-step of I2C.MASTER_XFER looks at the turns to come for the running context alone. -/
theorem exec_i2cMasterXfer_sameAnswer {bus : BitVec 4} (ht : (s.withTurns ts n).turn = s.turn)
    (hl : s.cur < s.ctxs.length) (hb : i2cBusOf s.plat bus = some b) :
    SameAnswer s ts n (exec (.i2cMasterXfer bus) s) (exec (.i2cMasterXfer bus) (s.withTurns ts n)) := by
  have hbt : i2cBusOf (s.withTurns ts n).plat bus = some b := hb
  have hpt : (s.withTurns ts n).me.pos = s.me.pos := by rw [State.withTurns_me ht]
  cases hp : s.me.pos with
  | start =>
    rw [exec_i2cMasterXfer_start hb hp, exec_i2cMasterXfer_start hbt (hpt.trans hp)]
    exact .xferGuard ht hl
  | xferEntry p =>
    rw [exec_i2cMasterXfer_entry hb hp, exec_i2cMasterXfer_entry hbt (hpt.trans hp)]
    exact .xferEntryStep ht hl p
  | xferLoad p =>
    rw [exec_i2cMasterXfer_load hb hp, exec_i2cMasterXfer_load hbt (hpt.trans hp)]
    exact .xferLoadStep ht hl p
  | xfer m p =>
    rw [exec_i2cMasterXfer_xfer hb hp, exec_i2cMasterXfer_xfer hbt (hpt.trans hp)]
    exact .xferStep ht hl p
  | ret =>
    rw [exec_i2cMasterXfer_ret hb hp, exec_i2cMasterXfer_ret hbt (hpt.trans hp), State.returned, State.returned,
      State.withTurns_me ht]
    exact .setMe ht hl id
  | _ =>
    have hlost : exec (.i2cMasterXfer bus) s = .fault .lostPosition := by simp [exec, execI2cMasterXfer, hb, hp]
    have hlostt : exec (.i2cMasterXfer bus) (s.withTurns ts n) = .fault .lostPosition := by
      simp [exec, execI2cMasterXfer, hbt, hpt, hp]
    rw [hlost, hlostt]
    exact ⟨rfl, fun _ h => by cases h⟩

end SameAnswer

/-- Context `c` is inside I2C.MASTER_XFER on bus b, and the next turn is its own. -/
structure RunsXfer (s : State) (c : Nat) (bus : BitVec 4) (b : BusId) : Prop where
  turn    : s.turn = .ofCtx c
  here    : c < s.ctxs.length
  names   : i2cBusOf s.plat bus = some b
  command : decode s.me.issued.cmd = .ok (.i2cMasterXfer bus)

section RunsXfer

variable {s t u : State} {c : Nat} {bus : BitVec 4} {b : BusId} {ts : List Turn} {j : Nat}

theorem RunsXfer.cur_eq (h : RunsXfer s c bus b) : s.cur = c := by rw [State.cur, h.turn]; rfl

theorem RunsXfer.cur_lt (h : RunsXfer s c bus b) : s.cur < s.ctxs.length := h.cur_eq ▸ h.here

theorem RunsXfer.of_exec (h : RunsXfer s c bus b) (hu : exec (.i2cMasterXfer bus) s = .next u) : RunsXfer u c bus b := by
  have he := exec_effect hu
  obtain ⟨-, hissued, -⟩ := he.caller
  exact ⟨he.turn_eq.trans h.turn, he.length ▸ h.here, he.plat ▸ h.names, hissued ▸ h.command⟩

/-- A context that a run leaves running was running before. -/
theorem RunsXfer.live (h : RunsXfer s c bus b) {n : Nat} (hrun : runExec (.i2cMasterXfer bus) n s = .next t)
    (ht : t.me.fault = none) : s.me.fault = none := by
  induction n generalizing s with
  | zero => exact Host.Outcome.next.inj hrun ▸ ht
  | succ n ih =>
    obtain ⟨u, hexec, hrest⟩ := runExec_succ_eq_next hrun
    exact (exec_i2cMasterXfer_sameAnswer (n := s.seq) (ts := s.env) rfl h.cur_lt h.names).live u hexec
      (ih (h.of_exec hexec) hrest)

/-- One turn of the context is one micro-step. -/
theorem RunsXfer.step_turn (h : RunsXfer s c bus b) (hf : s.me.fault = none)
    (hu : exec (.i2cMasterXfer bus) s = .next u) :
    step (s.withTurns (.ofCtx c :: ts) j) = .next (u.withTurns ts (j + 1)) := by
  have hturn : (s.withTurns (.ofCtx c :: ts) j).turn = s.turn := h.turn.symm
  have hme := State.withTurns_me hturn
  have hready : s.me.pos ≠ .ready := fun hp => by
    rw [exec_of_ready (inst := .i2c b) (instOf_eq_i2c.2 ⟨rfl, h.names⟩) hp] at hu
    cases hu
  rw [step_of_command (s := s.withTurns (.ofCtx c :: ts) j) rfl h.here (hme ▸ hf) (hme ▸ hready) (hme ▸ h.command),
    (exec_i2cMasterXfer_sameAnswer hturn h.cur_lt h.names).turns, hu]
  rfl

/-- A block of turns of the context is an uninterrupted run. -/
theorem RunsXfer.steps_block (h : RunsXfer s c bus b) {n : Nat} (hrun : runExec (.i2cMasterXfer bus) n s = .next t)
    (ht : t.me.fault = none) (k : Nat) :
    steps (k + n) (s.withTurns (List.replicate n (Turn.ofCtx c) ++ ts) j) = steps k (t.withTurns ts (j + n)) := by
  induction n generalizing s j with
  | zero => rw [← Host.Outcome.next.inj hrun]; rfl
  | succ n ih =>
    have hlive := h.live hrun ht
    obtain ⟨u, hexec, hrest⟩ := runExec_succ_eq_next hrun
    rw [Nat.add_succ k n, steps_succ, List.replicate_succ, List.cons_append, h.step_turn hlive hexec, andThen_next,
      ih (h.of_exec hexec) hrest, Nat.succ_add_eq_add_succ]

end RunsXfer

/-! # The probe of an address (R153, R169, R172, R175) -/

/-! ## Micro-steps inside a message, in the normal form of a run -/

/-- A moved context stands where it was moved to. -/
theorem runsAt_goto {s : State} (hl : s.cur < s.ctxs.length) (hf : s.me.fault = none) (p : Pos) : RunsAt (s.goto p) p where
  here := by simpa using hl
  live := by rw [State.me_goto hl]; exact hf
  pos := by rw [State.me_goto hl]

/-- A micro-step and the run after it are one run. -/
theorem runExec_of_exec {i : Instr} {n : Nat} {s t : State}
    (h : ∃ u, exec i s = .next u ∧ runExec i n u = .next t) : runExec i (n + 1) s = .next t :=
  andThen_eq_next.2 h

section Message

variable {s : State} {bus : BitVec 4} {b : BusId} {m : Msg} {x y : I2cBus} {es : List BusEvent} {p q : Pos}

theorem State.inI2c_setI2c_goto (hl : s.cur < s.ctxs.length) :
    ((s.inI2c b x es p).setI2c b y).goto q = s.inI2c b y es q := by
  rw [State.inI2c_setI2c, State.inI2c_goto hl]

theorem State.inI2c_emitAll (fs : List BusEvent) : (s.inI2c b x es p).emitAll fs = s.inI2c b x (es ++ fs) p := by
  rw [State.inI2c_eq_goto, State.inI2c_eq_goto, ← State.emitAll_emitAll]
  rfl

theorem runExec_inI2c_xfer (hl : s.cur < s.ctxs.length) (hb : i2cBusOf s.plat bus = some b) (p : XferPos) (n : Nat) :
    runExec (.i2cMasterXfer bus) (n + 1) (s.inI2c b x es (.xfer m p)) =
      andThen (xferStep b m p (s.inI2c b x es (.xfer m p))) (runExec (.i2cMasterXfer bus) n) :=
  runExec_xfer (s := (s.setI2c b x).emitAll es) hl hb n

/-- A wait that sees its flag (R165). -/
theorem runExec_wait_seen (hl : s.cur < s.ctxs.length) (hb : i2cBusOf s.plat bus = some b) {w : WaitPt} {i : Nat}
    (hw : w.sr1Bit = some i) (hclean : x.sr1 &&& 0x00004F00 = 0) (hset : testBit x.sr1 i = true)
    (hq : ∀ t, afterWait t b m w = q) (n : Nat) :
    runExec (.i2cMasterXfer bus) (n + 1) (s.inI2c b x es (.xfer m (.wait w .sr1))) =
      runExec (.i2cMasterXfer bus) n (s.inI2c b { x with armed1 := true } es q) := by
  have hf : hasFault ((s.inI2c b x es (.xfer m (.wait w .sr1))).i2cAt b).sr1 = false := by
    rw [State.inI2c_i2cAt]
    exact hasFault_eq_false.2 hclean
  rw [runExec_inI2c_xfer hl hb, xferStep_wait_flag hf hw, State.inI2c_i2cAt, if_pos hset, hq, State.armedSr1,
    State.inI2c_i2cAt, State.inI2c_setI2c_goto hl, andThen_next]

/-- A wait on CR1 that finds no operation pending (R153, R165). -/
theorem runExec_wait_free (hl : s.cur < s.ctxs.length) (hb : i2cBusOf s.plat bus = some b) {w : WaitPt}
    (hw : w.sr1Bit = none) (hclean : x.sr1 &&& 0x00004F00 = 0) (hfree : x.cr1 &&& 0x00001300 = 0)
    (hq : ∀ t, afterWait t b m w = q) (n : Nat) :
    runExec (.i2cMasterXfer bus) (n + 2) (s.inI2c b x es (.xfer m (.wait w .sr1))) =
      runExec (.i2cMasterXfer bus) n (s.inI2c b { x with armed1 := true } es q) := by
  have hf : hasFault ((s.inI2c b x es (.xfer m (.wait w .sr1))).i2cAt b).sr1 = false := by
    rw [State.inI2c_i2cAt]
    exact hasFault_eq_false.2 hclean
  rw [runExec_inI2c_xfer hl hb, xferStep_wait_pending hf hw, State.armedSr1, State.inI2c_i2cAt,
    State.inI2c_setI2c_goto hl, andThen_next, runExec_inI2c_xfer hl hb, xferStep, waitStep, State.inI2c_i2cAt,
    if_pos (noPending_eq_true.2 hfree), hq, State.inI2c_goto hl, andThen_next]

/-- A wait that sees a protocol fault (R165, R168). -/
theorem runExec_wait_fault (hl : s.cur < s.ctxs.length) (hb : i2cBusOf s.plat bus = some b) (w : WaitPt)
    (hfault : x.sr1 &&& 0x00004F00 ≠ 0) (n : Nat) :
    runExec (.i2cMasterXfer bus) (n + 1) (s.inI2c b x es (.xfer m (.wait w .sr1))) =
      runExec (.i2cMasterXfer bus) n (s.inI2c b { x with armed1 := true } es (.xfer m (.faultFlags x.sr1))) := by
  have hf : hasFault ((s.inI2c b x es (.xfer m (.wait w .sr1))).i2cAt b).sr1 = true := by
    rw [State.inI2c_i2cAt]
    exact hasFault_eq_true.2 hfault
  rw [runExec_inI2c_xfer hl hb, xferStep_wait_fault w hf, State.armedSr1, State.inI2c_i2cAt,
    State.inI2c_setI2c_goto hl, andThen_next]

end Message

/-! ## A write message of length 0 -/

/-- A probe: a write message of length 0 to a 7-bit address (R175). -/
structure Msg.IsProbe (m : Msg) : Prop where
  write : m.rd = false
  seven : m.ten = false
  empty : m.len = 0

/-- `x` with a start requested once its SR1 has been read (R158). -/
def I2cBus.startRequested (x : I2cBus) : I2cBus :=
  { x with armed1 := true, cr1 := setBit x.cr1 i2cSTART &&& i2cCr1Mask }

/-- `x` with a stop requested once its SR1 has been read (R164). -/
def I2cBus.stopRequested (x : I2cBus) : I2cBus :=
  { x with armed1 := true, cr1 := setBit x.cr1 i2cSTOP &&& i2cCr1Mask }

/-- `x` after exit `e`: released, with the state the exit resolves to (R33, R170, R172). -/
def I2cBus.exited (x : I2cBus) (e : Exit) : I2cBus := { x with inflight := none, dev := { x.dev with state := e.devState } }

/-- `x` with the error flags of a fault seen in its SR1 (R169). -/
def I2cBus.faulted (x : I2cBus) : I2cBus :=
  { x with dev := { x.dev with errorFlags := (x.sr1 &&& 0x00004F00).setWidth 16 } }

/-- `x` once ADDR is cleared after the address byte of a write (R73, R196). -/
def I2cBus.transmitting (x : I2cBus) : I2cBus :=
  { x with sr1 := setBit (clearBit x.sr1 i2cADDR) i2cTXE, phase := .tx, armed1 := false }

/-! ### The bus during a probe -/

theorem setBit_and (v m : Word) (i : Nat) : setBit v i &&& m = (v &&& m) ||| (bitMask i &&& m) := by
  refine eq_of_testBit_eq fun j _ => ?_
  simp only [testBit, setBit, BitVec.getLsbD_and, BitVec.getLsbD_or, Bool.and_or_distrib_right]

theorem clearBit_and (v m : Word) (i : Nat) : clearBit v i &&& m = clearBit (v &&& m) i := by
  rw [clearBit, clearBit, BitVec.and_assoc, BitVec.and_comm (~~~_), ← BitVec.and_assoc]

/-- The peripheral is enabled and connected, with no fault, no request pending, and device state `d`. -/
structure I2cBus.Clear (x : I2cBus) (d : Dev) : Prop where
  enabled   : x.pe = true
  connected : x.connected = true
  clean     : x.sr1 &&& 0x00004F00 = 0
  free      : x.cr1 &&& 0x00001300 = 0
  dev       : x.dev = d

/-- As `Clear`, and the peripheral is the bus's master. -/
structure I2cBus.Owned (x : I2cBus) (d : Dev) : Prop extends x.Clear d where
  master : x.msl = true

/-- The address byte of a write was acknowledged (R194). -/
structure I2cBus.Acked (x : I2cBus) : Prop where
  flag  : testBit x.sr1 i2cADDR = true
  phase : x.phase = .addressed
  dir   : x.dir = .write
  sent  : x.txPending = false

theorem I2cBus.Acked.readSr2 {x : I2cBus} (h : x.Acked) : { x with armed1 := true }.readSr2.2 = x.transmitting := by
  rw [I2cBus.readSr2_eq]
  simp [h.flag, h.phase, h.dir, I2cBus.transmitting]

theorem I2cBus.Owned.transmitting {x : I2cBus} {d : Dev} (h : x.Owned d) : x.transmitting.Owned d where
  enabled := h.enabled
  connected := h.connected
  clean := by
    rw [I2cBus.transmitting, setBit_and, clearBit_and, h.clean]
    rfl
  free := h.free
  dev := h.dev
  master := h.master

/-- A free bus on which a start may be requested. -/
structure I2cBus.Ready (x : I2cBus) (d : Dev) : Prop extends x.Clear d where
  idle  : x.phase = .idle
  quiet : x.busy = false

/-- `x` once its requested start has been accepted and generated (R193). -/
def I2cBus.started (x : I2cBus) : I2cBus := { x.startRequested with phase := .startReq }.generateStart

/-- A pending request, once done, leaves nothing pending (R45, R193, R200). -/
theorem clear_pending {v : Word} {i : Nat} (hfree : v &&& 0x00001300 = 0)
    (hi : clearBit ((bitMask i &&& 0x00001300) &&& i2cCr1Mask) i = 0) :
    clearBit (setBit v i &&& i2cCr1Mask) i &&& 0x00001300 = 0 := by
  rw [clearBit_and, BitVec.and_assoc, BitVec.and_comm i2cCr1Mask, ← BitVec.and_assoc, setBit_and, hfree]
  simpa only [BitVec.ofNat_eq_ofNat, BitVec.zero_or] using hi

/-- A bit of CR1 after another has been set (R73). -/
theorem testBit_setBit_cr1 (v : Word) {i j : Nat} (hi : i < 32) (hj : testBit i2cCr1Mask j = true) :
    testBit (setBit v i &&& i2cCr1Mask) j = (testBit v j || decide (i = j)) := by
  rw [testBit_and, testBit_setBit _ _ _ hi, hj, Bool.and_true]

section Bus

variable {x : I2cBus} {d : Dev}

theorem I2cBus.pe_startRequested (h : x.pe = true) : x.startRequested.pe = true :=
  (testBit_setBit_cr1 _ (by decide) rfl).trans ((Bool.or_false _).trans h)

theorem I2cBus.pe_stopRequested (h : x.pe = true) : x.stopRequested.pe = true :=
  (testBit_setBit_cr1 _ (by decide) rfl).trans ((Bool.or_false _).trans h)

theorem I2cBus.startReq_startRequested (x : I2cBus) : x.startRequested.startReq = true :=
  (testBit_setBit_cr1 _ (by decide) rfl).trans (Bool.or_true _)

theorem I2cBus.stopReq_stopRequested (x : I2cBus) : x.stopRequested.stopReq = true :=
  (testBit_setBit_cr1 _ (by decide) rfl).trans (Bool.or_true _)

/-- The start is accepted (R193). -/
theorem I2cBus.Ready.accept (h : x.Ready d) : x.startRequested.stepEnabled .accept = true := by
  have hphase : x.startRequested.phase = .idle := h.idle
  have hconn : x.startRequested.connected = true := h.connected
  simp [I2cBus.stepEnabled, I2cBus.stepReady, I2cBus.pe_startRequested h.enabled, hconn, hphase,
    I2cBus.startReq_startRequested]

/-- The start is generated (R193). -/
theorem I2cBus.Ready.generate (h : x.Ready d) :
    { x.startRequested with phase := .startReq }.stepEnabled .generate = true := by
  have hconn : { x.startRequested with phase := .startReq }.connected = true := h.connected
  have hpe : { x.startRequested with phase := .startReq }.pe = true := I2cBus.pe_startRequested h.enabled
  simp [I2cBus.stepEnabled, I2cBus.stepReady, hpe, hconn]

theorem I2cBus.Ready.started (h : x.Ready d) : x.started.Owned d where
  enabled := by
    rw [I2cBus.started, I2cBus.generateStart_pe]
    exact I2cBus.pe_startRequested h.enabled
  connected := h.connected
  clean := by
    have hclean : x.startRequested.sr1 &&& 0x00004F00 = 0 := h.clean
    simp only [I2cBus.started, I2cBus.generateStart, clearBit_and, setBit_and, hclean]
    rfl
  free := clear_pending h.free rfl
  dev := h.dev
  master := by
    refine (testBit_setBit _ _ _ (by decide)).trans (Bool.or_eq_true_iff.2 (.inl ?_))
    exact (testBit_setBit _ _ _ (by decide)).trans (Bool.or_true _)

/-- SB is set (R193). -/
theorem I2cBus.testBit_started (x : I2cBus) : testBit x.started.sr1 i2cSB = true := by
  simp [I2cBus.started, I2cBus.generateStart, testBit_clearBit, testBit_setBit, i2cSB, i2cBTF, i2cTXE]

/-- `x` with the address byte `v` written to DR once SB has been seen (R159). -/
def I2cBus.addressing (x : I2cBus) (v : Byte) : I2cBus := { x with armed1 := true }.writeDr (v.setWidth 32)

theorem I2cBus.Owned.addressing (h : x.Owned d) (v : Byte) : (x.addressing v).Owned d where
  enabled := h.enabled
  connected := h.connected
  clean := by
    rw [I2cBus.addressing, I2cBus.writeDr_of_armed rfl]
    simp only [clearBit_and, h.clean]
    rfl
  free := h.free
  dev := h.dev
  master := h.master

/-- The address byte can be sent (R194). -/
theorem I2cBus.Owned.address (h : x.Owned d) (hphase : x.phase = .started) (v : Byte) :
    (x.addressing v).stepEnabled .address = true := by
  have hpe : (x.addressing v).pe = true := h.enabled
  have hconn : (x.addressing v).connected = true := h.connected
  have hready : (x.addressing v).stepReady .address = true := by
    simp [I2cBus.stepReady, I2cBus.addressing, I2cBus.writeDr, hphase]
  rw [I2cBus.stepEnabled, hpe, hconn, hready]
  rfl

/-- `x` once the address byte of a write has been sent (R194). -/
def I2cBus.addressed (x : I2cBus) (ack : Bool) : I2cBus := { x with
  txPending := false
  dir := .write
  sr1 := setBit x.sr1 (if ack then i2cADDR else i2cAF)
  sr2 := if ack then setBit x.sr2 i2cTRA else x.sr2
  phase := if ack then .addressed else .failed }

/-- The address byte of a write that is no 10-bit header (R194). -/
theorem I2cBus.sendAddress_write {v : Byte} (hv : x.dr.setWidth 8 = v) (hseven : isWriteHeader v = false)
    (hwrite : v.getLsbD 0 = false) (ack : Bool) : x.sendAddress ack = x.addressed ack := by
  cases ack <;> simp only [I2cBus.sendAddress, I2cBus.nack, I2cBus.addressed, hv, hseven, hwrite, Bool.false_eq_true,
    if_false, if_true, putBit, Bool.not_false]

theorem I2cBus.Owned.addressed (h : x.Owned d) : (x.addressed true).Owned d where
  enabled := h.enabled
  connected := h.connected
  clean := by
    rw [I2cBus.addressed, setBit_and, h.clean]
    rfl
  free := h.free
  dev := h.dev
  master := (testBit_setBit _ _ _ (by decide)).trans (Bool.or_eq_true_iff.2 (.inl h.master))

theorem I2cBus.acked_addressed (x : I2cBus) : (x.addressed true).Acked where
  flag := (testBit_setBit _ _ _ (by decide)).trans (Bool.or_true _)
  phase := rfl
  dir := rfl
  sent := rfl

/-- Without an acknowledge AF is the one fault flag (R194). -/
theorem I2cBus.Owned.nacked (h : x.Owned d) : (x.addressed false).sr1 &&& 0x00004F00 = 0x00000400 := by
  rw [I2cBus.addressed, setBit_and, h.clean]
  rfl

/-- The requested stop can be generated (R200). -/
theorem I2cBus.Owned.stop (h : x.Owned d) (ha : x.Acked) : x.transmitting.stopRequested.stepEnabled .stop = true := by
  have hpe : x.transmitting.stopRequested.pe = true := I2cBus.pe_stopRequested h.transmitting.enabled
  have hconn : x.transmitting.stopRequested.connected = true := h.connected
  have hsent : x.transmitting.stopRequested.txPending = false := ha.sent
  simp [I2cBus.stepEnabled, I2cBus.stepReady, hpe, hconn, hsent, I2cBus.stopReq_stopRequested]

/-- After the stop nothing is pending, no fault is seen, and the bus is free (R200). -/
theorem I2cBus.Owned.stopped (h : x.Owned d) : x.stopRequested.generateStop.Clear d where
  enabled := by
    rw [I2cBus.generateStop_pe]
    exact I2cBus.pe_stopRequested h.enabled
  connected := h.connected
  clean := by
    have hclean : x.stopRequested.sr1 &&& 0x00004F00 = 0 := h.clean
    simp only [I2cBus.generateStop, clearBit_and, hclean]
    rfl
  free := clear_pending h.free rfl
  dev := h.dev

theorem I2cBus.generateStop_frees (x : I2cBus) : x.generateStop.busy = false ∧ x.generateStop.msl = false := by
  simp [I2cBus.busy, I2cBus.msl, I2cBus.generateStop, testBit_clearBit, i2cBUSY, i2cMSL, i2cTRA]

end Bus

/-- `s` after a command on I2C bus b that has made it x, appended the records es and written `v` to RES (R24, R26). -/
def State.afterI2c (s : State) (b : BusId) (x : I2cBus) (es : List BusEvent) (v : Word) : State :=
  ((s.setI2c b x).emitAll es).completedWith v

section AfterI2c

variable {s : State} {b : BusId} {x : I2cBus} {es : List BusEvent} {v : Word}

theorem State.completedWith_me (hl : s.cur < s.ctxs.length) (v : Word) : (s.completedWith v).me =
    { s.me with res := v, resWritten := true, pos := .ready, cc := s.me.cc + 1 } := by
  have hlr : (s.setRes v).cur < (s.setRes v).ctxs.length := by simpa using hl
  rw [State.completedWith, State.returned, State.me_setMe hlr, State.me_setRes hl]

theorem State.afterI2c_me (hl : s.cur < s.ctxs.length) : (s.afterI2c b x es v).me =
    { s.me with res := v, resWritten := true, pos := .ready, cc := s.me.cc + 1 } :=
  State.completedWith_me (s := (s.setI2c b x).emitAll es) hl v

theorem State.afterI2c_i2cAt : (s.afterI2c b x es v).i2cAt b = x := Bank.get_put_same ..

theorem State.afterI2c_i2cAt_other {e : BusId} (he : e ≠ b) : (s.afterI2c b x es v).i2cAt e = s.i2cAt e :=
  Bank.get_put_other _ _ he

end AfterI2c

section Probe

variable {s : State} {bus : BitVec 4} {b : BusId} {m : Msg} {x : I2cBus} {es : List BusEvent}

/-- With nothing pending START is set (R158). -/
theorem runExec_probe_start (hl : s.cur < s.ctxs.length) (hb : i2cBusOf s.plat bus = some b) (hm : m.IsProbe)
    (hclean : x.sr1 &&& 0x00004F00 = 0) (hfree : x.cr1 &&& 0x00001300 = 0) :
    runExec (.i2cMasterXfer bus) 3 (s.inI2c b x es (.xfer m (.wait .pendStart .sr1))) =
      .next (s.inI2c b x.startRequested es (.xfer m (.wait .sb .sr1))) := by
  rw [runExec_wait_free (q := .xfer m .start) hl hb rfl hclean hfree fun t => by rw [afterWait, hm.write]; rfl,
    runExec_inI2c_xfer hl hb, xferStep, State.modifyI2cCr1_start, State.inI2c_i2cAt, State.inI2c_setI2c_goto hl,
    andThen_next, runExec_zero, I2cBus.startRequested]

/-- With SB seen the address byte goes to DR (R159). -/
theorem runExec_probe_address (hl : s.cur < s.ctxs.length) (hb : i2cBusOf s.plat bus = some b) (hm : m.IsProbe)
    (hclean : x.sr1 &&& 0x00004F00 = 0) (hsb : testBit x.sr1 i2cSB = true) :
    runExec (.i2cMasterXfer bus) 2 (s.inI2c b x es (.xfer m (.wait .sb .sr1))) =
      .next (s.inI2c b (x.addressing m.addr7Byte) es (.xfer m (.wait .addr .sr1))) := by
  rw [runExec_wait_seen (q := .xfer m .addr7) hl hb rfl hclean hsb fun t => by rw [afterWait, hm.seven]; rfl,
    runExec_inI2c_xfer hl hb, xferStep, State.writeI2cDr, State.inI2c_i2cAt, State.inI2c_setI2c_goto hl,
    andThen_next, runExec_zero, I2cBus.addressing]

/-- With ADDR seen it is cleared, and STOP is set after the only message, which is empty (R160, R163, R164). -/
theorem runExec_probe_acked (hl : s.cur < s.ctxs.length) (hb : i2cBusOf s.plat bus = some b) (hm : m.IsProbe)
    {d : Dev} (hx : x.Owned d) (ha : x.Acked) (hlast : ¬d.cursor.idx.toNat + 1 < d.cursor.count.toNat) :
    runExec (.i2cMasterXfer bus) 5 (s.inI2c b x es (.xfer m (.wait .addr .sr1))) =
      .next (s.inI2c b x.transmitting.stopRequested es (.xfer m (.wait .pendDone .sr1))) := by
  have hnext : firstData (s.inI2c b { x with armed1 := true } es (.xfer m .clearAddr)) b m =
      .xfer m (.wait .pendStop .sr1) := by
    rw [firstData, if_pos hm.empty, afterMessage, State.cursorAt, State.inI2c_i2cAt]
    exact if_neg (by rw [hx.dev]; exact hlast)
  rw [runExec_wait_seen (q := .xfer m .clearAddr) hl hb rfl hx.clean ha.flag
      fun t => by rw [afterWait, hm.seven, Bool.false_and]; rfl,
    runExec_inI2c_xfer hl hb, xferStep, hnext, State.readI2cSr2, State.inI2c_i2cAt, ha.readSr2,
    State.inI2c_setI2c_goto hl, andThen_next,
    runExec_wait_free (q := .xfer m .stop) hl hb rfl hx.transmitting.clean hx.transmitting.free fun _ => rfl,
    runExec_inI2c_xfer hl hb, xferStep, State.modifyI2cCr1_stop, State.inI2c_i2cAt, State.inI2c_setI2c_goto hl,
    andThen_next, runExec_zero, I2cBus.stopRequested]

/-- With the stop done the transfer has succeeded (R164, R172). -/
theorem runExec_probe_stopped (hl : s.cur < s.ctxs.length) (hb : i2cBusOf s.plat bus = some b)
    (hclean : x.sr1 &&& 0x00004F00 = 0) (hfree : x.cr1 &&& 0x00001300 = 0) :
    runExec (.i2cMasterXfer bus) 6 (s.inI2c b x es (.xfer m (.wait .pendDone .sr1))) =
      .next (s.afterI2c b ({ x with armed1 := true }.exited .ok) es 0) := by
  rw [runExec_wait_free (q := .xfer m (.exitState .ok)) hl hb rfl hclean hfree fun _ => rfl, State.inI2c_eq_goto,
    runExec_exitState (s := (s.setI2c b _).emitAll es) hl hb, State.emitAll_i2cAt, State.i2cAt_setI2c]
  exact congrArg (fun u : State => Host.Outcome.next ((u.emitAll es).completedWith 0)) (s.setI2c_setI2c b _ _)

/-- With a fault seen it is recorded, a stop is requested, and the transfer has failed (R169). -/
theorem runExec_probe_failed (hl : s.cur < s.ctxs.length) (hb : i2cBusOf s.plat bus = some b) (w : WaitPt)
    (hfault : x.sr1 &&& 0x00004F00 ≠ 0) :
    runExec (.i2cMasterXfer bus) 7 (s.inI2c b x es (.xfer m (.wait w .sr1))) =
      .next (s.afterI2c b (x.faulted.stopRequested.exited .protocol) es 0xFFFFFFFF) := by
  rw [runExec_wait_fault hl hb w hfault, runExec_inI2c_xfer hl hb, xferStep, State.setDev, State.inI2c_i2cAt,
    State.inI2c_setI2c_goto hl, andThen_next, State.inI2c_eq_goto,
    runExec_exitStop (s := (s.setI2c b _).emitAll es) hl hb, State.emitAll_i2cAt, State.i2cAt_setI2c]
  exact congrArg (fun u : State => Host.Outcome.next ((u.emitAll es).completedWith 0xFFFFFFFF)) (s.setI2c_setI2c b _ _)

/-- The descriptor at `d` asks for the probe of a 7-bit address below 0x78 (R65, R175). -/
structure ProbesAt (s : State) (d : Nat) : Prop where
  addr    : (s.mem.read16 d).toNat < 0x78
  flags   : s.mem.read16 (d + 2) = 0
  len     : s.mem.read16 (d + 4) = 0
  addrOk  : allows s.plat d 2 = true
  flagsOk : allows s.plat (d + 2) 2 = true
  lenOk   : allows s.plat (d + 4) 2 = true
  countOk : allows s.plat (d + 6) 2 = true
  dataOk  : allows s.plat (d + 8) 4 = true

/-- The four checks of R155 pass. -/
theorem ProbesAt.valid {d : Nat} (h : ProbesAt s d) : ¬((s.mem.read16 (d + 2)).extractLsb' 2 14 ≠ 0 ∨
    ((s.mem.read16 (d + 2)).getLsbD 1 = false ∧ 0x80 ≤ (s.mem.read16 d).toNat) ∨
    ((s.mem.read16 (d + 2)).getLsbD 1 = true ∧ 0x400 ≤ (s.mem.read16 d).toNat) ∨
    ((s.mem.read16 (d + 2)).getLsbD 0 = true ∧ s.mem.read16 (d + 4) = 0)) := by
  have haddr := h.addr
  rw [h.flags]
  simp
  omega

/-- The message of a probe's descriptor. -/
def probeMsg (s : State) (d : Nat) : Msg where
  addr := s.mem.read16 d
  rd := false
  ten := false
  len := 0
  data := s.mem.read32 (d + 8)

theorem probeMsg_isProbe (s : State) (d : Nat) : (probeMsg s d).IsProbe := ⟨rfl, rfl, rfl⟩

/-- Below 0x78 no address byte of a write reads as a 10-bit header (R194). -/
theorem not_header_of_lt : ∀ a : Fin 0x78, isWriteHeader (BitVec.ofNat 8 (2 * a.val)) = false ∧
    (BitVec.ofNat 8 (2 * a.val)).getLsbD 0 = false := by decide

/-- The byte a probe sends is twice the address (R159). -/
theorem probeMsg_byte (s : State) (d : Nat) :
    (probeMsg s d).addr7Byte = BitVec.ofNat 8 (2 * (s.mem.read16 d).toNat) := by
  have hbyte : (probeMsg s d).addr7Byte.toNat = 2 * ((s.mem.read16 d).toNat % 128) + 0 :=
    (probeMsg s d).addr7Byte_toNat
  refine BitVec.eq_of_toNat_eq ?_
  rw [BitVec.toNat_ofNat]
  omega

/-- `x` with the faults of an earlier transfer cleared and with cursor `u` (R156). -/
def I2cBus.entered (x : I2cBus) (u : Cursor) : I2cBus :=
  { x with sr1 := x.sr1 &&& ~~~0x00004F00#32, dev := { x.dev with errorFlags := 0, cursor := u } }

/-- The cursor of a transfer that has entered now (R156). -/
def entryCursor (s : State) (idx : Half) : Cursor where
  msgs := s.me.issued.arg0
  count := countOf s.me.issued.arg1
  idx := idx
  t0 := s.now
  timeout := s.me.issued.arg2

/-- The probe's one descriptor is valid (R155). -/
theorem runExec_probe_validate {d : Nat} (hl : s.cur < s.ctxs.length) (hf : s.me.fault = none)
    (hb : i2cBusOf s.plat bus = some b) (hd : s.me.issued.arg0.toNat = d) (hone : s.me.issued.arg1 = 1)
    (h : ProbesAt s d) : runExec (.i2cMasterXfer bus) 3 (s.inEntry b x (.checkAddr 0)) =
      .next (s.inEntry b x .msgs) := by
  have hdesc : d = (s.inEntry b x (.checkAddr 0)).me.issued.arg0.toNat + 12 * 0 := by
    rw [State.inEntry_me hl, hd, Nat.mul_zero, Nat.add_zero]
  obtain ⟨hgood, -⟩ := xferValidatesADescriptor (s.inEntry b x (.checkAddr 0)) bus b 0 d _ _ _ _
    (runsAt_goto (s := s.setI2c b x) hl hf _) hb hdesc h.addrOk h.flagsOk h.lenOk rfl rfl rfl Iff.rfl
  have hrun := runExec_of_exec (hgood h.valid)
  rw [State.inEntry_goto hl, State.inEntry_me hl, hone] at hrun
  exact hrun

/-- The probe's message is loaded (R157). -/
theorem runExec_probe_load {d : Nat} (hl : s.cur < s.ctxs.length) (hf : s.me.fault = none)
    (hb : i2cBusOf s.plat bus = some b) (hd : s.me.issued.arg0.toNat = d) (h : ProbesAt s d) (i : Half) :
    runExec (.i2cMasterXfer bus) 6 ((s.setI2c b (x.entered (entryCursor s i))).goto (.xferLoad (.index 0))) =
      .next ((s.setMem (s.mem.write16 (d + 6) 0)).inI2c b (x.entered (entryCursor s 0)) []
        (.xfer (probeMsg s d) (.wait .pendStart .sr1))) := by
  have hindex : (s.setI2c b (x.entered (entryCursor s 0))).goto (.xferLoad (.index 0)) =
      ((s.setI2c b (x.entered (entryCursor s i))).goto (.xferLoad (.index 0))).setI2c b (x.entered (entryCursor s 0)) := by
    rw [State.setI2c_goto, State.setI2c_setI2c]
  have hmsg : (⟨s.mem.read16 d, (s.mem.read16 (d + 2)).getLsbD 0, (s.mem.read16 (d + 2)).getLsbD 1,
      (s.mem.read16 (d + 4)).toNat, s.mem.read32 (d + 8)⟩ : Msg) = probeMsg s d := by
    rw [h.flags, h.len]
    rfl
  obtain ⟨hgood, -⟩ := xferLoadsTheMessage ((s.setI2c b (x.entered (entryCursor s i))).goto (.xferLoad (.index 0)))
    bus b 0 d _ _ _ _ ((s.setI2c b (x.entered (entryCursor s 0))).goto (.xferLoad (.index 0)))
    (runsAt_goto (s := s.setI2c b _) hl hf _) hb (by decide)
    (by rw [State.goto_i2cAt, State.i2cAt_setI2c, ← hd]; rfl) h.addrOk h.flagsOk h.lenOk h.dataOk rfl rfl rfl Iff.rfl
    (by rw [hindex, State.goto_i2cAt, State.i2cAt_setI2c]; rfl)
  refine (runExec_of_exec (hgood h.valid h.countOk)).trans ?_
  rw [State.setMem_goto, State.setMem_goto_goto (s := s.setI2c b _) hl, State.inI2c_nil, ← hmsg]
  rfl

/-- The probe from its claim to the wait for its start: validation, entry, message load and START (R155 to R158). -/
theorem runExec_probe_request {d : Nat} (hl : s.cur < s.ctxs.length) (hf : s.me.fault = none)
    (hb : i2cBusOf s.plat bus = some b) (hd : s.me.issued.arg0.toNat = d) (hone : s.me.issued.arg1 = 1)
    (h : ProbesAt s d) {e : Dev} (hx : (x.entered (entryCursor s 0)).Ready e) :
    runExec (.i2cMasterXfer bus) 19 (s.inEntry b x (.checkAddr 0)) =
      .next ((s.setMem (s.mem.write16 (d + 6) 0)).inI2c b (x.entered (entryCursor s 0)).startRequested []
        (.xfer (probeMsg s d) (.wait .sb .sr1))) := by
  have hentry : runExec (.i2cMasterXfer bus) 7 (s.inEntry b x .msgs) = .next ((s.setI2c b (x.entered
      (entryCursor s x.dev.cursor.idx))).goto (.xferLoad (.index 0))) := by
    refine (runExec_entry hl hb).trans ?_
    rw [I2cBus.writeSr1_entry]
    rfl
  rw [runExec_add _ 3 16, runExec_probe_validate hl hf hb hd hone h, andThen_next, runExec_add _ 7 9, hentry,
    andThen_next, runExec_add _ 6 3, runExec_probe_load hl hf hb hd h, andThen_next]
  exact runExec_probe_start (s := s.setMem _) hl hb (probeMsg_isProbe s d) hx.clean hx.free

end Probe

/-! ## The probe turn by turn -/

theorem i2cValid_of_i2cBusOf {p : Platform} {f : BitVec 4} {b : BusId} (h : i2cBusOf p f = some b) :
    i2cValid p b = true := by
  unfold i2cBusOf at h
  split at h
  · cases h
  · split at h
    · cases h; assumption
    · cases h

section Turns

variable {s : State} {c : Nat} {bus : BitVec 4} {b : BusId} {m : Msg} {x : I2cBus} {es : List BusEvent} {p : Pos}
  {ts : List Turn} {j n : Nat} {d : Dev}

theorem RunsXfer.inI2c (h : RunsXfer s c bus b) : RunsXfer (s.inI2c b x es p) c bus b where
  turn := h.turn
  here := by simpa [State.inI2c_eq_goto] using h.here
  names := h.names
  command := by rw [State.inI2c_me h.cur_lt]; exact h.command

theorem RunsXfer.inEntry (h : RunsXfer s c bus b) {q : EntryPos} : RunsXfer (s.inEntry b x q) c bus b := by
  rw [State.inEntry, ← State.inI2c_nil]
  exact h.inI2c

/-- A turn of the I2C peripheral whose step is enabled. -/
theorem steps_i2c (hb : i2cBusOf s.plat bus = some b) {k : I2cStep} (hen : x.stepEnabled k = true) {byte : Byte}
    {bit : Bool} {y : I2cBus} {fs : List BusEvent} (hy : x.stepEffect k byte bit = y)
    (hfs : es ++ x.stepEvents b k byte bit = fs) :
    steps (n + 1) ((s.inI2c b x es p).withTurns (.ofAgent (.i2c b k) byte bit :: ts) j) =
      steps n ((s.inI2c b y fs p).withTurns ts (j + 1)) := by
  have hx : ((s.inI2c b x es p).withTurns (.ofAgent (.i2c b k) byte bit :: ts) j).i2cAt b = x :=
    State.inI2c_i2cAt (p := p)
  have hnext : s.inI2c b y fs p = ((s.inI2c b x es p).setI2c b y).emitAll (x.stepEvents b k byte bit) := by
    rw [State.inI2c_setI2c, State.inI2c_emitAll, hfs]
  rw [steps_succ, step_of_i2c (s := (s.inI2c b x es p).withTurns _ j) rfl (i2cValid_of_i2cBusOf hb)
    (by rw [hx]; exact hen), hx, andThen_next, hnext, ← hy]
  rfl

/-- A block of turns of context c inside the command, to another position of it. -/
theorem RunsXfer.steps_inI2c (h : RunsXfer s c bus b) (hf : s.me.fault = none) {k : Nat} {y : I2cBus} {q : Pos}
    (hrun : runExec (.i2cMasterXfer bus) k (s.inI2c b x es p) = .next (s.inI2c b y es q)) :
    steps (n + k) ((s.inI2c b x es p).withTurns (List.replicate k (Turn.ofCtx c) ++ ts) j) =
      steps n ((s.inI2c b y es q).withTurns ts (j + k)) :=
  h.inI2c.steps_block hrun (by rw [State.inI2c_me h.cur_lt]; exact hf) n

/-- The turns in which the start is made and the address byte is sent (R193, R194). -/
def addressTurns (c : Nat) (b : BusId) (ack : Bool) (ts : List Turn) : List Turn :=
  .ofAgent (.i2c b .accept) :: .ofAgent (.i2c b .generate) ::
    (List.replicate 2 (Turn.ofCtx c) ++ Turn.ofAgent (.i2c b .address) 0 ack :: ts)

/-- From the requested start to the answer to the address byte. -/
theorem steps_probe_address (h : RunsXfer s c bus b) (hf : s.me.fault = none) (hm : m.IsProbe) (hx : x.Ready d)
    (hseven : isWriteHeader m.addr7Byte = false) (hwrite : m.addr7Byte.getLsbD 0 = false) (ack : Bool) :
    steps (n + 5) ((s.inI2c b x.startRequested [] (.xfer m (.wait .sb .sr1))).withTurns (addressTurns c b ack ts) j) =
      steps n ((s.inI2c b ((x.started.addressing m.addr7Byte).addressed ack)
        [.i2cStart b false, .i2cByte b .write m.addr7Byte ack] (.xfer m (.wait .addr .sr1))).withTurns ts (j + 5)) := by
  have hdr : (x.started.addressing m.addr7Byte).dr.setWidth 8 = m.addr7Byte := by
    simp [I2cBus.addressing, I2cBus.writeDr]
  have hfresh : (x.busy && x.msl) = false := by rw [hx.quiet, Bool.false_and]
  have hown := hx.started
  refine (steps_i2c (y := { x.startRequested with phase := .startReq }) (fs := []) h.names hx.accept rfl rfl).trans ?_
  refine (steps_i2c (y := x.started) (fs := [.i2cStart b false]) h.names hx.generate rfl ?_).trans ?_
  · exact congrArg (fun r => [BusEvent.i2cStart b r]) hfresh
  refine (h.steps_inI2c (n := n + 1) hf
    (runExec_probe_address h.cur_lt h.names hm hown.clean x.testBit_started)).trans ?_
  refine steps_i2c h.names (hown.address rfl _) (I2cBus.sendAddress_write hdr hseven hwrite ack) ?_
  rw [I2cBus.stepEvents, hdr]
  rfl

/-- An acknowledged probe: STOP is requested, the stop is made, and the transfer has succeeded (R164, R172, R200). -/
theorem steps_probe_acked (h : RunsXfer s c bus b) (hf : s.me.fault = none) (hm : m.IsProbe) (hx : x.Owned d)
    (ha : x.Acked) (hlast : ¬d.cursor.idx.toNat + 1 < d.cursor.count.toNat) :
    steps (n + 12) ((s.inI2c b x es (.xfer m (.wait .addr .sr1))).withTurns (List.replicate 5 (Turn.ofCtx c) ++
      Turn.ofAgent (.i2c b .stop) :: (List.replicate 6 (Turn.ofCtx c) ++ ts)) j) =
      steps n ((s.afterI2c b ({ x.transmitting.stopRequested.generateStop with armed1 := true }.exited .ok)
        (es ++ [.i2cStop b]) 0).withTurns ts (j + 12)) := by
  have hstop : x.transmitting.stopRequested.stepEvents b .stop 0 true = [.i2cStop b] :=
    if_pos hx.transmitting.master
  have hend := hx.transmitting.stopped
  refine (h.steps_inI2c (n := n + 7) hf (runExec_probe_acked h.cur_lt h.names hm hx ha hlast)).trans ?_
  refine (steps_i2c (n := n + 6) (fs := es ++ [.i2cStop b]) h.names (hx.stop ha) rfl (by rw [hstop])).trans ?_
  refine h.inI2c.steps_block (runExec_probe_stopped h.cur_lt h.names hend.clean hend.free) ?_ n
  rw [State.afterI2c_me h.cur_lt]
  exact hf

/-- A probe without an acknowledge fails (R169). -/
theorem steps_probe_nacked (h : RunsXfer s c bus b) (hf : s.me.fault = none) (hfault : x.sr1 &&& 0x00004F00 ≠ 0) :
    steps (n + 7) ((s.inI2c b x es (.xfer m (.wait .addr .sr1))).withTurns (List.replicate 7 (Turn.ofCtx c) ++ ts) j) =
      steps n ((s.afterI2c b (x.faulted.stopRequested.exited .protocol) es 0xFFFFFFFF).withTurns ts (j + 7)) := by
  refine h.inI2c.steps_block (runExec_probe_failed h.cur_lt h.names .addr hfault) ?_ n
  rw [State.afterI2c_me h.cur_lt]
  exact hf

/-- The bus of an entered transfer is ready for a start (R156). -/
theorem I2cBus.ready_entered {u : Cursor} (hpe : x.pe = true) (hconn : x.connected = true) (hphase : x.phase = .idle)
    (hquiet : x.busy = false) (hfree : x.cr1 &&& 0x00001300 = 0) :
    (x.entered u).Ready { x.dev with errorFlags := 0, cursor := u } where
  enabled := hpe
  connected := hconn
  clean := by
    rw [I2cBus.entered, BitVec.and_assoc]
    exact BitVec.and_zero
  free := hfree
  dev := rfl
  idle := hphase
  quiet := hquiet

/-- A probe from its claim to the answer to its address byte. -/
theorem steps_probe_request (h : RunsXfer s c bus b) (hf : s.me.fault = none) {d : Nat}
    (hd : s.me.issued.arg0.toNat = d) (hone : s.me.issued.arg1 = 1) (hp : ProbesAt s d) {e : Dev}
    (hx : (x.entered (entryCursor s 0)).Ready e) (ack : Bool) :
    steps (n + 24) ((s.inEntry b x (.checkAddr 0)).withTurns
      (List.replicate 19 (Turn.ofCtx c) ++ addressTurns c b ack ts) j) =
      steps n (((s.setMem (s.mem.write16 (d + 6) 0)).inI2c b
        (((x.entered (entryCursor s 0)).started.addressing (probeMsg s d).addr7Byte).addressed ack)
        [.i2cStart b false, .i2cByte b .write (probeMsg s d).addr7Byte ack]
        (.xfer (probeMsg s d) (.wait .addr .sr1))).withTurns ts (j + 24)) := by
  have hs : RunsXfer (s.setMem (s.mem.write16 (d + 6) 0)) c bus b := ⟨h.turn, h.here, h.names, h.command⟩
  obtain ⟨hseven, hwrite⟩ := not_header_of_lt ⟨_, hp.addr⟩
  rw [← probeMsg_byte] at hseven hwrite
  refine (h.inEntry.steps_block (runExec_probe_request h.cur_lt hf h.names hd hone hp hx) ?_ (n + 5)).trans ?_
  · rw [State.inI2c_me hs.cur_lt]
    exact hf
  · exact steps_probe_address hs hf (probeMsg_isProbe s d) hx hseven hwrite ack

/-- The turns in which an acknowledged probe stops and returns, or one that is not fails and returns (R164, R169, R172). -/
def answerTurns (c : Nat) (b : BusId) (ack : Bool) (ts : List Turn) : List Turn :=
  if ack then List.replicate 5 (Turn.ofCtx c) ++ Turn.ofAgent (.i2c b .stop) :: (List.replicate 6 (Turn.ofCtx c) ++ ts)
  else List.replicate 7 (Turn.ofCtx c) ++ ts

/-- The bus after a probe (R169, R172, R200). -/
structure I2cBus.Probed (x : I2cBus) (ack : Bool) : Prop where
  released : x.inflight = none
  state    : x.dev.state = if ack then .transferDone else .error
  flags    : x.dev.errorFlags = if ack then 0 else 0x0400
  freed    : ack = true → x.busy = false ∧ x.msl = false

/-- A probe from its claim to its return. -/
theorem steps_probe (h : RunsXfer s c bus b) (hf : s.me.fault = none) {d : Nat} (hd : s.me.issued.arg0.toNat = d)
    (hone : s.me.issued.arg1 = 1) (hp : ProbesAt s d)
    (hx : (x.entered (entryCursor s 0)).Ready { x.dev with errorFlags := 0, cursor := entryCursor s 0 }) (ack : Bool) :
    ∃ y : I2cBus, y.Probed ack ∧ steps (if ack then 36 else 31) ((s.inEntry b x (.checkAddr 0)).withTurns
      (List.replicate 19 (Turn.ofCtx c) ++ addressTurns c b ack (answerTurns c b ack ts)) j) =
        .next (((s.setMem (s.mem.write16 (d + 6) 0)).afterI2c b y ([.i2cStart b false,
          .i2cByte b .write (BitVec.ofNat 8 (2 * (s.mem.read16 d).toNat)) ack] ++ if ack then [.i2cStop b] else [])
          (if ack then 0 else 0xFFFFFFFF)).withTurns ts (j + if ack then 36 else 31)) := by
  have hs : RunsXfer (s.setMem (s.mem.write16 (d + 6) 0)) c bus b := ⟨h.turn, h.here, h.names, h.command⟩
  have hown := hx.started.addressing (probeMsg s d).addr7Byte
  rw [← probeMsg_byte]
  cases ack with
  | true =>
    have hlast : ¬(entryCursor s 0).idx.toNat + 1 < (entryCursor s 0).count.toNat := by
      rw [show (entryCursor s 0).count = countOf 1 from congrArg countOf hone]
      exact show ¬(0 : Half).toNat + 1 < (countOf 1).toNat by decide
    refine ⟨_, ⟨rfl, rfl, ?_, fun _ => ?_⟩, (steps_probe_request (n := 12) h hf hd hone hp hx true).trans
      (steps_probe_acked (n := 0) hs hf (probeMsg_isProbe s d) hown.addressed (I2cBus.acked_addressed _) hlast)⟩
    · exact congrArg Dev.errorFlags hown.addressed.dev
    · exact I2cBus.generateStop_frees _
  | false =>
    have hfault := hown.nacked
    refine ⟨_, ⟨rfl, rfl, ?_, nofun⟩, (steps_probe_request (n := 7) h hf hd hone hp hx false).trans
      (steps_probe_nacked (n := 0) hs hf (by rw [hfault]; decide))⟩
    exact congrArg (fun v : Word => v.setWidth 16) hfault

end Turns

/-- Settles O45: the guard, and then the run of the probe turn by turn. -/
theorem probeOfAnAddress : Obligations.ProbeOfAnAddress := by
  unfold Obligations.ProbeOfAnAddress
  intro s bus b c d ack rest henv hs hi hb hfree hidle hpe hconn hphase hquiet hpend hd haligned hone haddr hflags hlen
    hok hok2 hok4 hok8 hok6
  have hturn : s.turn = .ofCtx c := by rw [State.turn, henv]; rfl
  have hcur : s.cur = c := by rw [State.cur, hturn]; rfl
  subst hcur
  have hargs : xferArgsOk s.me.issued.arg0 s.me.issued.arg1 = true :=
    xferArgsOk_iff.2 (by rw [hone, ← hd]; exact ⟨rfl, by decide, haligned⟩)
  have hstart := (exec_i2cMasterXfer_start hb hs.pos).trans (xferGuard_open hfree (guardOpen_iff.2 (.inl hidle)))
  rw [if_pos hargs] at hstart
  have htail : s.env.tail =
      List.replicate 19 (Turn.ofCtx s.cur) ++ addressTurns s.cur b ack (answerTurns s.cur b ack rest) := by
    rw [henv]
    cases ack <;> rfl
  obtain ⟨y, hy, hsteps⟩ := steps_probe (ts := rest) (j := s.seq + 1) ⟨hturn, hs.here, hb, hi⟩ hs.live hd.symm hone
    ⟨haddr, hflags, hlen, hok, hok2, hok4, hok6, hok8⟩
    (I2cBus.ready_entered (x := (s.i2cAt b).claimed s.cur) hpe hconn hphase hquiet hpend) ack
  rw [← htail] at hsteps
  refine ⟨_, _, hstart, hsteps, rfl, State.afterI2c_me (s := s.setMem _) hs.here, ?_⟩
  rw [State.withTurns_i2cAt, State.afterI2c_i2cAt]
  refine ⟨hy.released, hy.state, hy.flags, rfl, (List.append_assoc ..).symm, hy.freed, fun _ => rfl,
    fun e he => ?_⟩
  rw [State.withTurns_i2cAt, State.afterI2c_i2cAt_other he, State.setMem_i2cAt]

end Sys2Proof.Machine

namespace Sys2Proof

/-! # The choices that NO_FAULT allows (R180, R202) -/

/-- The steps that draw an acknowledge (R180). -/
def I2cStep.drawsAck : I2cStep → Bool
  | .address | .address2 | .transmit => true
  | .accept | .generate | .receive | .stop | .busError | .arbitrationLoss | .overrun => false

theorem I2cStep.drawsAck_eq (k : I2cStep) : k.drawsAck = (k == .address || k == .address2 || k == .transmit) := by
  cases k <;> rfl

/-- What `NO_FAULT(b)` says of a step of bus b (R202). -/
theorem Turn.noFault_of_i2c {t : Turn} {b : BusId} {k : I2cStep} (ha : t.agent = .i2c b k) (h : t.noFault b = true) :
    k.isFault = false ∧ (k.drawsAck = true → t.bit = true) := by
  unfold Turn.noFault at h
  rw [ha] at h
  simp only [bne_self_eq_false, Bool.false_or, ← I2cStep.drawsAck_eq, Bool.and_eq_true, Bool.not_eq_true'] at h
  obtain ⟨hk, hbit⟩ := h
  exact ⟨hk, fun hd => by simpa [hd] using hbit⟩

end Sys2Proof

namespace Sys2Proof.Machine

/-! # What a context's step can do to the buses (R12, R23) -/

/-- Every bus of `t` is that of `s` after accesses of the running context. -/
structure BusAccesses (s t : State) : Prop where
  spi : ∀ b, Relation.ReflTransGen (SpiAccess s.cur) (s.spiAt b) (t.spiAt b)
  i2c : ∀ b, Relation.ReflTransGen (I2cAccess s.cur) (s.i2cAt b) (t.i2cAt b)

theorem BusAccesses.refl (s : State) : BusAccesses s s := ⟨fun _ => .refl, fun _ => .refl⟩

theorem BusAccesses.setMe (s : State) (x : Ctx) : BusAccesses s (s.setMe x) := ⟨fun _ => .refl, fun _ => .refl⟩

theorem callerStep_busAccesses {s t : State} (h : callerStep s = .next t) : BusAccesses s t := by
  unfold callerStep at h
  split at h
  · cases h; exact .refl s
  · cases h; exact .setMe ..
  · split at h <;> cases h
    exact .setMe ..
  · rcases memAccess_eq_next h with rfl | h
    · exact .refl _
    · cases h; exact ⟨fun _ => .refl, fun _ => .refl⟩

theorem commandStep_busAccesses {s t : State} (h : commandStep s = .next t) : BusAccesses s t := by
  unfold commandStep at h
  split at h
  · exact ⟨(exec_effect h).spi, (exec_effect h).i2c⟩
  · cases h; exact .setMe ..

theorem ctxStep_busAccesses {s t : State} (h : ctxStep s = .next t) : BusAccesses s t := by
  unfold ctxStep at h
  split at h
  · split at h
    · cases h; exact .refl s
    · split at h
      · exact callerStep_busAccesses h
      · exact commandStep_busAccesses h
  · cases h; exact .refl s

/-- A caller's port write leaves every bus alone. -/
theorem portStep_busAccesses (c : Nat) (p : Port) (s : State) : BusAccesses s (portStep c p s) := by
  unfold portStep
  split
  · exact .refl s
  · exact ⟨fun _ => .refl, fun _ => .refl⟩

/-! # The SPI peripheral (R184, R186, R187) -/

/-! ## The start of a frame (R184, R187) -/

/-- No access of a command puts a frame in the shifter. -/
theorem SpiAccess.no_frame {c : Nat} {x y : SpiBus} (ha : SpiAccess c x y) (h : x.shActive = false) :
    y.shActive = false := by
  cases ha with
  | claim | release | cr1 | pins => exact h
  | readSr => rw [SpiBus.readSr_shActive, h]
  | readDr => rw [SpiBus.readDr_shActive, h]
  | writeDr v => rw [SpiBus.writeDr_shActive, h]

/-- A step of an SPI peripheral leaves the other SPI buses alone. -/
theorem spiStartStep_spiAt_other {b d : BusId} (h : b ≠ d) (v : Byte) (s : State) :
    (spiStartStep d v s).spiAt b = s.spiAt b := by
  unfold spiStartStep
  split
  · exact State.spiAt_setSpi_other _ _ h
  · rfl

theorem spiCompleteStep_spiAt_other {b d : BusId} (h : b ≠ d) (v : Byte) (s : State) :
    (spiCompleteStep d v s).spiAt b = s.spiAt b := by
  unfold spiCompleteStep
  split
  · exact State.spiAt_setSpi_other _ _ h
  · rfl

/-- With an idle shifter there is no frame to complete. -/
theorem spiCompleteStep_of_idle {b : BusId} {s : State} (h : (s.spiAt b).shActive = false) (v : Byte) :
    spiCompleteStep b v s = s := by
  simp [spiCompleteStep, SpiBus.completeEnabled, h]

theorem spiStartStep_of_not_enabled {b : BusId} {s : State} (h : (s.spiAt b).startEnabled = false) (v : Byte) :
    spiStartStep b v s = s := by
  simp [spiStartStep, h]

theorem i2cPerStep_spiAt (b d : BusId) (k : I2cStep) (v : Byte) (a : Bool) (s : State) :
    (i2cPerStep d k v a s).spiAt b = s.spiAt b := by
  unfold i2cPerStep
  dsimp only
  split <;> rfl

/-- A step that puts a frame in the shifter is the peripheral's own start, and it was enabled. -/
theorem agentStep_starts_frame {s u : State} {b : BusId} (h : agentStep s = .next u)
    (hidle : (s.spiAt b).shActive = false) (hframe : (u.spiAt b).shActive = true) :
    s.turn.agent = .spiStart b ∧ (s.spiAt b).startEnabled = true := by
  have hchanged : u.spiAt b ≠ s.spiAt b := fun e => by rw [e, hidle] at hframe; cases hframe
  have hbyAccess (ha : BusAccesses s u) : False := by
    have hstill := kept_of_reflTransGen (P := fun x : SpiBus => x.shActive = false)
      (fun _ _ => SpiAccess.no_frame) (ha.spi b) hidle
    rw [hframe] at hstill
    cases hstill
  unfold agentStep at h
  split at h
  · exact (hbyAccess (ctxStep_busAccesses h)).elim
  · cases h; exact (hbyAccess (portStep_busAccesses ..)).elim
  · rename_i d hagent
    cases h
    obtain rfl : d = b := by_contra fun hd => hchanged (spiStartStep_spiAt_other (Ne.symm hd) ..)
    refine ⟨hagent, ?_⟩
    by_contra hen
    exact hchanged (congrArg (State.spiAt · d) (spiStartStep_of_not_enabled (Bool.eq_false_iff.2 hen) _))
  · rename_i d _
    cases h
    refine (hchanged ?_).elim
    by_cases hd : b = d
    · subst hd; rw [spiCompleteStep_of_idle hidle]
    · exact spiCompleteStep_spiAt_other hd ..
  · cases h; exact (hchanged (i2cPerStep_spiAt ..)).elim
  · cases h; exact (hchanged rfl).elim

/-- When a frame can start (R184, R187). -/
theorem SpiBus.startEnabled_iff {x : SpiBus} :
    x.startEnabled = true ↔ x.spe = true ∧ x.shActive = false ∧ (x.mstr = true → x.txe = false) := by
  unfold SpiBus.startEnabled
  cases x.mstr <;> simp [and_assoc]

/-- Settles O30: an enabled start is `startFrame`, and of all the steps only such a start fills an idle shifter. -/
theorem frameStartTakesTheByte : Obligations.FrameStartTakesTheByte := by
  unfold Obligations.FrameStartTakesTheByte
  refine fun s b => ⟨fun ha hv hspe hidle hwaits => ?_, fun t hstep hidle hframe => ?_⟩
  · exact step_of_spiStart ha hv (SpiBus.startEnabled_iff.2 ⟨hspe, hidle, hwaits⟩)
  · obtain ⟨u, hu, rfl⟩ := step_eq_next.1 hstep
    obtain ⟨hagent, hen⟩ := agentStep_starts_frame hu hidle hframe
    obtain ⟨hspe, -, hwaits⟩ := SpiBus.startEnabled_iff.1 hen
    exact ⟨hagent, hspe, hwaits⟩

/-! ## The completion of a frame (R186) -/

/-- The received byte, field by field (R186 point 2). -/
theorem SpiBus.receive_eq (x : SpiBus) (rx : Byte) : x.receive rx = { x with
    rxbuf := if x.rxne then x.rxbuf else rx
    sr := setBit x.sr (if x.rxne then spiOVR else spiRXNE) } := by
  unfold SpiBus.receive
  cases x.rxne <;> rfl

/-- Receiving a byte sends none. -/
theorem SpiBus.receive_txe (x : SpiBus) (rx : Byte) : (x.receive rx).txe = x.txe := by
  unfold SpiBus.receive
  split <;> exact (testBit_setBit _ _ _ (by decide)).trans (Bool.or_false _)

theorem SpiBus.receive_mstr (x : SpiBus) (rx : Byte) : (x.receive rx).mstr = x.mstr := by
  rw [SpiBus.receive_eq]
  rfl

/-- The shifter after a frame, field by field (R186 point 3). -/
theorem SpiBus.afterFrame_eq (x : SpiBus) : x.afterFrame = { x with
    shTx := if x.mstr && !x.txe then x.txbuf else x.shTx
    sr := if x.mstr && !x.txe then setBit x.sr spiTXE else clearBit x.sr spiBSY } := by
  unfold SpiBus.afterFrame
  cases x.mstr && !x.txe <;> rfl

/-- Settles O31: the record, and then the two parts of the completion field by field. -/
theorem frameCompletionDeliversTheByte : Obligations.FrameCompletionDeliversTheByte := by
  unfold Obligations.FrameCompletionDeliversTheByte
  intro s b ha hv hspe hframe
  have hen : (s.spiAt b).completeEnabled = true := by rw [SpiBus.completeEnabled, hspe, hframe]; rfl
  rw [step_of_spiComplete ha hv hen, SpiBus.afterFrame_eq, SpiBus.receive_mstr, SpiBus.receive_txe, SpiBus.receive_eq]
  rfl

/-! # The I2C peripheral (R193 to R195, R199, R201, R202) -/

/-! ## The start (R193) -/

/-- When a requested start is accepted (R193). -/
theorem I2cBus.stepReady_accept_iff {x : I2cBus} : x.stepReady .accept = true ↔
    x.startReq = true ∧ (x.phase ∈ [.idle, .rx, .failed, .lost] ∨ (x.phase = .tx ∧ x.txPending = false)) := by
  unfold I2cBus.stepReady
  cases x.phase <;> simp

/-- When no start is accepted: the other phases, and phase Tx with a byte to send. -/
theorem I2cBus.not_stepReady_accept_iff {x : I2cBus} : x.stepReady .accept = false ↔
    x.startReq = false ∨ x.phase ∈ [.startReq, .started, .hdrSent, .addressed] ∨
      (x.phase = .tx ∧ x.txPending = true) := by
  unfold I2cBus.stepReady
  cases x.phase <;> simp [or_iff_not_imp_left]

/-- An enabled and connected peripheral takes the steps that are ready (R202). -/
theorem I2cBus.stepEnabled_of_on {x : I2cBus} (hpe : x.pe = true) (hconn : x.connected = true) (k : I2cStep) :
    x.stepEnabled k = x.stepReady k := by
  simp [I2cBus.stepEnabled, hpe, hconn]

/-- Settles O46: the start is ready, or the step is idle. -/
theorem i2cStartSteps : Obligations.I2cStartSteps := by
  unfold Obligations.I2cStartSteps
  intro s b hv hpe hconn
  have hready := I2cBus.stepEnabled_of_on hpe hconn
  refine ⟨fun ha hreq hphase => ?_, fun ha hno => ?_, fun ha hphase => ?_⟩
  · have hen := (hready .accept).trans (I2cBus.stepReady_accept_iff.2 ⟨hreq, hphase⟩)
    refine (step_of_i2c ha hv hen).trans ?_
    rw [I2cBus.stepEvents, State.emitAll_nil]
    rfl
  · exact step_of_i2c_disabled ha ((hready .accept).trans (I2cBus.not_stepReady_accept_iff.2 hno))
  · have hen : (s.i2cAt b).stepReady .generate = true := by rw [I2cBus.stepReady, hphase]; rfl
    exact step_of_i2c ha hv ((hready .generate).trans hen)

/-! ## The address bytes (R194, R195) -/

/-- A 10-bit write header is 11110xx0. -/
theorem isWriteHeader_eq (a : Byte) : isWriteHeader a = (a &&& 0xF9 == 0xF0) := by
  revert a
  decide

/-- A write header's direction bit is 0. -/
theorem writeHeader_dir {a : Byte} (h : isWriteHeader a = true) : a.getLsbD 0 = false := by
  rw [isWriteHeader, Bool.and_eq_true, Bool.not_eq_true'] at h
  exact h.2

/-- The address byte, field by field (R194). -/
theorem I2cBus.sendAddress_eq {x : I2cBus} {a : Byte} (ha : a = x.dr.setWidth 8) (ack : Bool) :
    x.sendAddress ack = { x with
      txPending := false
      dir := if isWriteHeader a && !ack then x.dir else if a.getLsbD 0 then .read else .write
      sr1 := setBit x.sr1 (if ack then if isWriteHeader a then i2cADD10 else i2cADDR else i2cAF)
      sr2 := if ack && !isWriteHeader a then putBit x.sr2 i2cTRA (!a.getLsbD 0) else x.sr2
      phase := if ack then if isWriteHeader a then .hdrSent else .addressed else .failed } := by
  unfold I2cBus.sendAddress
  rw [← ha]
  cases hheader : isWriteHeader a with
  | true =>
    rw [writeHeader_dir hheader]
    cases ack <;> simp [I2cBus.nack, hheader]
  | false => cases ack <;> simp [I2cBus.nack, hheader]

/-- The second 10-bit address byte, field by field (R195). -/
theorem I2cBus.sendAddress2_eq (x : I2cBus) (ack : Bool) : x.sendAddress2 ack = { x with
    txPending := false
    sr1 := setBit x.sr1 (if ack then i2cADDR else i2cAF)
    sr2 := if ack then setBit x.sr2 i2cTRA else x.sr2
    phase := if ack then .addressed else .failed } := by
  cases ack <;> rfl

/-- Settles O47: each address byte is sent, with the fields its acknowledge gives. -/
theorem i2cAddressSteps : Obligations.I2cAddressSteps := by
  unfold Obligations.I2cAddressSteps
  intro s b a header hv hpe hconn hpend ha hheader
  have hready := I2cBus.stepEnabled_of_on hpe hconn
  refine ⟨fun hagent hphase => ?_, fun hagent hphase => ?_⟩
  · have hen : (s.i2cAt b).stepReady .address = true := by rw [I2cBus.stepReady, hphase, hpend]; rfl
    rw [step_of_i2c hagent hv ((hready .address).trans hen), I2cBus.stepEffect, I2cBus.sendAddress_eq ha,
      isWriteHeader_eq, ← hheader, I2cBus.stepEvents, ← ha]
    rfl
  · have hen : (s.i2cAt b).stepReady .address2 = true := by rw [I2cBus.stepReady, hphase, hpend]; rfl
    rw [step_of_i2c hagent hv ((hready .address2).trans hen), I2cBus.stepEffect, I2cBus.sendAddress2_eq,
      I2cBus.stepEvents, ← ha]
    rfl

/-! ## The error bits of SR1 (R199, R202) -/

/-- No error bit of SR1 is set: all its bits are within the others. -/
def I2cBus.NoErrorBits (x : I2cBus) : Prop := within 0xFFFF00FF x.sr1 = true

theorem I2cBus.noErrorBits_iff {x : I2cBus} : x.NoErrorBits ↔ x.sr1 &&& 0x0000FF00 = 0 :=
  within_eq_true (m := 0xFFFF00FF)

/-- No access of a command sets an error bit. -/
theorem I2cAccess.noErrorBits {c : Nat} {x y : I2cBus} (ha : I2cAccess c x y)
    (h : x.NoErrorBits) : y.NoErrorBits := by
  cases ha with
  | claim | release | cr2 | ccr | trise | pins | scl | sda | readSr1 | state | flags | cursor => exact h
  | cr1 i v =>
    rcases x.writeCr1_cases (putBit x.cr1 i v) with ⟨-, -, e⟩ | ⟨-, e⟩ <;> rw [e]
    · exact within_and_left _ h
    · exact h
  | reset => exact within_zero _
  | writeSr1 => exact within_and_left _ h
  | readSr2 =>
    rcases x.readSr2_cases with ⟨-, e⟩ | ⟨-, -, -, e⟩ | ⟨-, -, -, -, e⟩ | ⟨-, -, -, -, e⟩ <;> rw [e]
    · exact h
    · exact within_clearBit h _
    · exact within_setBit (within_clearBit h _) rfl
    · exact within_clearBit h _
  | readDr =>
    unfold I2cBus.readDr
    dsimp only
    split
    · exact within_clearBit (within_clearBit h _) _
    · exact within_clearBit h _
  | writeDr v =>
    refine within_clearBit ?_ _
    split
    · exact within_clearBit (within_clearBit (within_clearBit h _) _) _
    · exact h

/-- A step without a fault, and with an ACK where it draws one, sets no error bit. -/
theorem I2cBus.stepEffect_noErrorBits {x : I2cBus} {k : I2cStep} {bit : Bool} (hk : k.isFault = false)
    (hack : k.drawsAck = true → bit = true) (byte : Byte) (h : x.NoErrorBits) :
    (x.stepEffect k byte bit).NoErrorBits := by
  cases k with
  | busError | arbitrationLoss | overrun => cases hk
  | accept => exact h
  | generate => exact within_clearBit (within_clearBit (within_setBit h rfl) _) _
  | address =>
    rw [hack rfl, I2cBus.stepEffect, I2cBus.sendAddress_eq rfl]
    refine within_setBit h ?_
    rw [if_pos rfl]
    split <;> rfl
  | address2 => rw [hack rfl]; exact within_setBit h rfl
  | transmit => rw [hack rfl]; exact within_setBit (within_setBit h rfl) rfl
  | receive => exact within_setBit h rfl
  | stop => exact within_clearBit (within_clearBit (within_clearBit (within_clearBit h _) _) _) _

theorem spiStartStep_i2cAt (b d : BusId) (v : Byte) (s : State) : (spiStartStep d v s).i2cAt b = s.i2cAt b := by
  unfold spiStartStep
  split <;> rfl

theorem spiCompleteStep_i2cAt (b d : BusId) (v : Byte) (s : State) :
    (spiCompleteStep d v s).i2cAt b = s.i2cAt b := by
  unfold spiCompleteStep
  split <;> rfl

/-- What a step of an I2C peripheral keeps of every bus, if its effect keeps it of its own. -/
theorem i2cPerStep_keeps {P : I2cBus → Prop} {s : State} {b d : BusId} {k : I2cStep} {v : Byte} {a : Bool}
    (hown : d = b → P ((s.i2cAt b).stepEffect k v a)) (h : P (s.i2cAt b)) : P ((i2cPerStep d k v a s).i2cAt b) := by
  unfold i2cPerStep
  dsimp only
  split
  · by_cases hd : b = d
    · subst hd; simpa using hown rfl
    · simpa [hd] using h
  · exact h

/-- With a choice that `NO_FAULT(b)` allows, no agent sets an error bit of bus b. -/
theorem agentStep_noErrorBits {s u : State} {b : BusId} (hno : s.turn.noFault b = true) (h : agentStep s = .next u)
    (hclean : (s.i2cAt b).NoErrorBits) : (u.i2cAt b).NoErrorBits := by
  have hbyAccess (ha : BusAccesses s u) : (u.i2cAt b).NoErrorBits :=
    kept_of_reflTransGen (P := I2cBus.NoErrorBits) (fun _ _ => I2cAccess.noErrorBits) (ha.i2c b) hclean
  unfold agentStep at h
  split at h
  · exact hbyAccess (ctxStep_busAccesses h)
  · cases h; exact hbyAccess (portStep_busAccesses ..)
  · cases h; rwa [spiStartStep_i2cAt]
  · cases h; rwa [spiCompleteStep_i2cAt]
  · rename_i d k hagent
    cases h
    refine i2cPerStep_keeps (P := I2cBus.NoErrorBits) ?_ hclean
    rintro rfl
    obtain ⟨hk, hack⟩ := Turn.noFault_of_i2c hagent hno
    exact I2cBus.stepEffect_noErrorBits hk hack _ hclean
  · cases h; exact hclean

/-- Settles O49: off the bus no step is enabled; no access of a command and no faultless step sets an error bit. -/
theorem i2cStepsNeedTheBus : Obligations.I2cStepsNeedTheBus := by
  unfold Obligations.I2cStepsNeedTheBus
  refine ⟨fun s b k ha hoff => ?_, fun s t b hno hstep hclean => ?_⟩
  · refine step_of_i2c_disabled ha ?_
    rcases hoff with hoff | hoff <;> simp [I2cBus.stepEnabled, hoff]
  · obtain ⟨u, hu, rfl⟩ := step_eq_next.1 hstep
    have hstill := agentStep_noErrorBits hno hu (I2cBus.noErrorBits_iff.2 hclean)
    exact I2cBus.noErrorBits_iff.1 hstill

/-! ## The disable (R201) -/

/-- What clearing PE leaves of an enabled peripheral, its masks as numbers (R45, R201). -/
theorem I2cBus.writeCr1_clearPe {x : I2cBus} (hpe : x.pe = true) : x.writeCr1 (clearBit x.cr1 i2cPE) = { x with
    cr1 := x.cr1 &&& 0x0000B8FA
    sr1 := x.sr1 &&& 0x0000FF00
    sr2 := 0
    phase := .idle
    txPending := false
    nacked := false } := by
  have hmask : clearBit (clearBit (clearBit (clearBit x.cr1 i2cPE &&& i2cCr1Mask) i2cACK) i2cSTART) i2cSTOP =
      x.cr1 &&& 0x0000B8FA := by
    simp only [clearBit, BitVec.and_assoc]
    exact congrArg (x.cr1 &&& ·) (by decide)
  have hoff : testBit (clearBit x.cr1 i2cPE) i2cPE = false := (testBit_clearBit ..).trans (Bool.and_false _)
  rcases x.writeCr1_cases (clearBit x.cr1 i2cPE) with ⟨-, -, e⟩ | ⟨hkeeps | hon, -⟩
  · rw [e, hmask]
    rfl
  · rw [hpe] at hkeeps; cases hkeeps
  · rw [hoff] at hon; cases hon

/-- Settles O50: the first micro-step's PE clear, with no record. -/
theorem peripheralDisable : Obligations.PeripheralDisable := by
  unfold Obligations.PeripheralDisable
  intro s bus flags b hs hb hfree hremap hpe
  have ht := (enableTiming_of_remapOk hremap).trans (i2cTimingTable.1 b flags)
  rw [exec_i2cMasterEnable_start hs hb hfree ht, State.inI2c_nil, I2cBus.writeCr1_clearPe hpe]

end Sys2Proof.Machine

namespace Sys2Proof.Machine

/-! # Configuration errors of a bus in use (R222, R224) -/

/-! ## The claim of a held bus (R154, R222) -/

/-- A held SPI instance is not claimed. -/
theorem acquireSpi_held {b : BusId} {s : State} {c : Nat} (k : State → Result)
    (hheld : (s.spiAt b).inflight = some c) :
    acquireSpi b s k = .next (s.halted .concurrentUse) := by
  simp [acquireSpi, hheld, raise_eq]

/-- A held I2C instance is not claimed. -/
theorem acquireI2c_held {b : BusId} {s : State} {c : Nat} (k : State → Result)
    (hheld : (s.i2cAt b).inflight = some c) :
    acquireI2c b s k = .next (s.halted .concurrentUse) := by
  simp [acquireI2c, hheld, raise_eq]

section Claim

variable {i : Instr} {s : State} {b : BusId}

/-- Every SPI command that accesses its instance begins with the claim. -/
theorem exec_start_acquiresSpi (hp : s.me.pos = .start) (hacc : i.accesses = true) (hspi : i.isSpi = true)
    (hb : spiBusOf s.plat i.bus = some b) : ∃ k, exec i s = acquireSpi b s k := by
  cases i with
  | spiBegin bus tier ord mode =>
    simp only [exec, execSpiBegin, show spiBusOf s.plat bus = _ from hb, hp]; exact ⟨_, rfl⟩
  | spiBeginSlave bus ord mode =>
    simp only [exec, execSpiBeginSlave, show spiBusOf s.plat bus = _ from hb, hp]; exact ⟨_, rfl⟩
  | spiEnd bus =>
    simp only [exec, execSpiEnd, show spiBusOf s.plat bus = _ from hb, hp]; exact ⟨_, rfl⟩
  | spiRead bus =>
    simp only [exec, execSpiRead, show spiBusOf s.plat bus = _ from hb, hp]; exact ⟨_, rfl⟩
  | spiWrite bus =>
    simp only [exec, execSpiWrite, show spiBusOf s.plat bus = _ from hb, hp]; exact ⟨_, rfl⟩
  | spiTransfer bus byte =>
    simp only [exec, execSpiTransfer, show spiBusOf s.plat bus = _ from hb, hp]; exact ⟨_, rfl⟩
  | spiBaudCalc _ _ => cases hacc
  | i2cInit _ | i2cMasterEnable _ _ | i2cMasterXfer _ | i2cBusReset _ | i2cTimingCalc _ _ => cases hspi

/-- Every I2C command that accesses its instance begins with the claim; I2C.MASTER_XFER does where its guard is open. -/
theorem exec_start_acquiresI2c (hp : s.me.pos = .start) (hacc : i.accesses = true) (hi2c : i.isSpi = false)
    (hb : i2cBusOf s.plat i.bus = some b) (hopen : i.writesRes = true → guardOpen (s.i2cAt b).dev.state = true) :
    ∃ k, exec i s = acquireI2c b s k := by
  cases i with
  | i2cInit bus =>
    simp only [exec, execI2cInit, show i2cBusOf s.plat bus = _ from hb, hp]; exact ⟨_, rfl⟩
  | i2cMasterEnable bus flags =>
    simp only [exec, execI2cMasterEnable, show i2cBusOf s.plat bus = _ from hb, hp]; exact ⟨_, rfl⟩
  | i2cMasterXfer bus => exact ⟨_, (exec_i2cMasterXfer_start hb hp).trans (if_pos (hopen rfl))⟩
  | i2cBusReset bus =>
    simp only [exec, execI2cBusReset, show i2cBusOf s.plat bus = _ from hb, hp]; exact ⟨_, rfl⟩
  | i2cTimingCalc _ _ => cases hacc
  | spiBegin _ _ _ _ | spiBeginSlave _ _ _ | spiEnd _ | spiRead _ | spiWrite _ | spiTransfer _ _ | spiBaudCalc _ _ =>
    cases hi2c

end Claim

/-- The guard of I2C.MASTER_XFER is closed in the two remaining device states (R154). -/
theorem guardOpen_eq_false_iff {d : DevState} : guardOpen d = false ↔ d = .busy ∨ d = .disabled := by
  cases d <;> simp [guardOpen]

theorem guardOpen_of_ne {d : DevState} (h : d ≠ .busy ∧ d ≠ .disabled) : guardOpen d = true :=
  Bool.of_not_eq_false fun hclosed => (guardOpen_eq_false_iff.1 hclosed).elim h.1 h.2

/-- Settles O11: the claim is the first thing a command does, but that the guard of I2C.MASTER_XFER comes before it. -/
theorem concurrentUseHalts : Obligations.ConcurrentUseHalts := by
  unfold Obligations.ConcurrentUseHalts
  refine ⟨fun i s b c hs hacc hspi hb hheld => ?_, fun i s b c hs hacc hi2c hb hheld hstate => ?_,
    fun s bus b hs hb hstate => ?_⟩
  · obtain ⟨k, hk⟩ := exec_start_acquiresSpi hs.pos hacc hspi hb
    exact hk.trans (acquireSpi_held k hheld)
  · obtain ⟨k, hk⟩ := exec_start_acquiresI2c hs.pos hacc hi2c hb fun hw => guardOpen_of_ne (hstate hw)
    exact hk.trans (acquireI2c_held k hheld)
  · rw [exec_i2cMasterXfer_start hb hs.pos, xferGuard, guardOpen_eq_false_iff.2 hstate, if_neg Bool.false_ne_true]
    rfl

/-! ## The disable of a busy SPI bus (R224, R241) -/

/-- Clearing SPE of an enabled bus that is busy is the disable R224 refuses. -/
theorem SpiBus.disablesBusy_clearSpe {x : SpiBus} (hon : x.spe = true) (hbusy : x.shActive = true ∨ x.txe = false) :
    x.disablesBusy (clearBit x.cr1 spiSPE) = true := by
  have hoff : testBit (clearBit x.cr1 spiSPE) spiSPE = false :=
    (testBit_clearBit ..).trans (Bool.and_false _)
  rcases hbusy with hframe | hunsent
  · simp [SpiBus.disablesBusy, hon, hoff, hframe]
  · simp [SpiBus.disablesBusy, hon, hoff, hunsent]

/-- The disable of a busy bus halts before the write, whatever would follow it. -/
theorem spiWriteCr1_disable_busy {s : State} {b : BusId} (k : State → Result) (hon : (s.spiAt b).spe = true)
    (hbusy : (s.spiAt b).shActive = true ∨ (s.spiAt b).txe = false) :
    spiWriteCr1 b (clearBit (s.spiAt b).cr1 spiSPE) s k = .next (s.halted .disableWhileBusy) := by
  rw [spiWriteCr1, if_pos (SpiBus.disablesBusy_clearSpe hon hbusy), raise_eq]

/-- SpiReconfigure of a busy bus claims it and halts at its first write. -/
theorem Configures.exec_start_busy {i : Instr} {s : State} {b : BusId} {cr1 : Word} {cfg : PinState}
    (hi : Configures i s.plat b cr1 cfg) (hs : RunsAt s .start) (hfree : (s.spiAt b).inflight = none)
    (hon : (s.spiAt b).spe = true) (hbusy : (s.spiAt b).shActive = true ∨ (s.spiAt b).txe = false) :
    exec i s = .next ((s.holdingSpi b).halted .disableWhileBusy) := by
  have hclaimed : (s.holdingSpi b).spiAt b = { s.spiAt b with inflight := some s.cur } := State.spiAt_setSpi ..
  rw [hi.begins s rfl hs.pos, acquireSpi_free _ hfree]
  refine spiWriteCr1_disable_busy (s := s.holdingSpi b) _ ?_ ?_
  · rw [hclaimed]; exact hon
  · rw [hclaimed]; exact hbusy

/-- Settles O20: each of the three disables is the one refused write of CR1. -/
theorem disableWhileBusyHalts : Obligations.DisableWhileBusyHalts := by
  unfold Obligations.DisableWhileBusyHalts
  refine fun s bus b hb hon hbusy => ⟨fun tier ord mode br hs hfree hmode hbr => ⟨?_, ?_⟩, fun hs => ?_⟩
  · have hbaud : beginBaud b tier mode = .ok br := (beginBaud_of_validMode b tier hmode).trans hbr
    exact (configures_spiBegin ord hb hbaud).exec_start_busy hs hfree hon hbusy
  · exact (configures_spiBeginSlave ord hb hmode).exec_start_busy hs hfree hon hbusy
  · rw [exec_spiEnd_ending hb hs.pos, spiEndStep, spiWriteCr1_disable_busy _ hon hbusy]

end Sys2Proof.Machine
